-- ==== Sys2Proof/Word.lean ====
section
/-! DEFINITION. The sizes of the MIK engine as types (00_scope.md R4): an 8-bit value, a 16-bit
instruction word, and a 4-bit register index. -/

namespace Sys2Proof

/-- An 8-bit value, 0 to 255: the contents of a register, of a data-memory cell, of `pc`, and the
immediate (R4, R10, R13, R16, R52). -/
abbrev Byte := BitVec 8

/-- A 16-bit instruction word: the contents of an instruction-memory cell (R4, R17, R50). -/
abbrev Word := BitVec 16

/-- The value of an operand field a, b or c, used as a register index 0 to 15 (R51, R53). Adding 1
to it wraps from 15 to 0, as `a1 = (a + 1) mod 16` does. -/
abbrev RegIx := Fin 16

end Sys2Proof
end

