-- ==== Sys2Proof/Syntax.lean ====
section
/-! DEFINITION. The instructions, one constructor for each of the 32 rows of
spec/opcode_table.json. An operand field that only repeats another field to select the operation is
not written (R62): `push a b` is the word `0x0abb`. -/

namespace Sys2Proof

/-- An instruction of the MIK ISA. The condition on the index fields that selects each operation
(R55 to R60) is `Instr.wf`. -/
inductive Instr where
  /-- DIV ra, rb, rc: quotient to `x[a]`, remainder to `x[a1]` (R70). -/
  | div (a b c : RegIx)
  /-- PUSH ra, rb: a is the stack pointer, b the source (R90). -/
  | push (a b : RegIx)
  /-- HALT ra: `x[a]` is the exit status (R120). -/
  | halt (a : RegIx)
  /-- RECALL ra, rb, rc: return through the stack with a bump of `x[c] + 1` (R100). (The bare word
  `recall` is a Mathlib command, so it cannot be the name.) -/
  | recallBump (a b c : RegIx)
  /-- POP ra, rb: a is the stack pointer, b the destination (R91). -/
  | pop (a b : RegIx)
  /-- RET ra, rc: a receives the link, c holds the target (R101). -/
  | ret (a c : RegIx)
  /-- CLT ra, rb, rc: unsigned compare-less-than (R72). -/
  | clt (a b c : RegIx)
  /-- SHL ra, rb: shift left by one (R73). -/
  | shl (a b : RegIx)
  /-- SUB ra, rb, rc: `x[b] - x[c]` (R74). -/
  | sub (a b c : RegIx)
  /-- SHR ra, rb: logical shift right by one (R75). -/
  | shr (a b : RegIx)
  /-- LDX ra, rb, rc: load from `(x[b] + x[c]) mod 256` (R92). -/
  | ldx (a b c : RegIx)
  /-- ADD ra, rb, rc (R76). -/
  | add (a b c : RegIx)
  /-- STX ra, rb, rc: store `x[a]` to `(x[b] + x[c]) mod 256` (R93). -/
  | stx (a b c : RegIx)
  /-- OR ra, rb, rc (R77). -/
  | or (a b c : RegIx)
  /-- MUL ra, rb, rc: low byte to `x[a]`, high byte to `x[a1]` (R71). -/
  | mul (a b c : RegIx)
  /-- AND ra, rb, rc (R78). -/
  | and (a b c : RegIx)
  /-- CALLX ra, rb, rc: link to `x[a]`, target from data memory; c takes part only in the
  selection (R102). -/
  | callx (a b c : RegIx)
  /-- XOR ra, rb, rc (R79). -/
  | xor (a b c : RegIx)
  /-- JZ ra, imm: jump if `x[a]` is zero (R103). -/
  | jz (a : RegIx) (imm : Byte)
  /-- JNZ ra, imm: jump if `x[a]` is not zero (R104). -/
  | jnz (a : RegIx) (imm : Byte)
  /-- CALLS ra, imm: call with the link in `x[a]` (R105). -/
  | calls (a : RegIx) (imm : Byte)
  /-- CALL ra, imm: call with the return address pushed through the stack pointer `x[a]` (R106). -/
  | call (a : RegIx) (imm : Byte)
  /-- LDR ra, imm: load from the absolute address imm (R94). -/
  | ldr (a : RegIx) (imm : Byte)
  /-- STR ra, imm: store to the absolute address imm (R95). -/
  | str (a : RegIx) (imm : Byte)
  /-- LDC ra, imm: load the constant imm (R80). -/
  | ldc (a : RegIx) (imm : Byte)
  /-- SYS ra, 0: core dump; a is ignored (R123). -/
  | sys0 (a : RegIx)
  /-- SYS ra, 1: read an integer (R124). -/
  | sys1 (a : RegIx)
  /-- SYS ra, 2: write `x[a]` as a decimal integer (R125). -/
  | sys2 (a : RegIx)
  /-- SYS ra, 3: read a character (R126). -/
  | sys3 (a : RegIx)
  /-- SYS ra, 4: write the character whose code is `x[a]` (R127). -/
  | sys4 (a : RegIx)
  /-- SYS ra, 5: write the string in data memory at `x[a]` (R128). -/
  | sys5 (a : RegIx)
  /-- SYS ra, n with n from 6 to 255: no operation (R129). -/
  | sysN (a : RegIx) (imm : Byte)
deriving DecidableEq, Repr

end Sys2Proof
end

