-- ==== Sys2Proof/WellFormed.lean ====
section
/-! DEFINITION. The condition on the operand index fields under which each operation exists (the
"condition" column of R55 to R60, and of spec/opcode_table.json), as a check on an `Instr`. The
conditions compare indices, never register contents (R54). -/

namespace Sys2Proof

/-- The instruction is one its opcode can select: the operand indices meet the condition of its row.
An operand that `Instr` does not write equals the one it repeats, so `b == c` of PUSH, SHL and SHR,
`a == c` of POP, `a == b` of RET and `a == b == c` of HALT hold by construction. -/
def Instr.wf : Instr → Bool
  | .div _ b c => b ≠ c
  | .push a b => a ≠ b
  | .halt _ => true
  | .recallBump a b c => a ≠ b && a ≠ c
  | .pop a b => a ≠ b
  | .ret _ _ => true
  | .clt _ b c => b ≠ c
  | .shl _ _ => true
  | .sub _ b c => b ≠ c
  | .shr _ _ => true
  | .ldx _ b c => b ≤ c
  | .add _ b c => c < b
  | .stx _ b c => b ≤ c
  | .or _ b c => c < b
  | .mul _ b c => b ≤ c
  | .and _ b c => c < b
  | .callx _ b c => b ≤ c
  | .xor _ b c => c < b
  | .jz _ _ => true
  | .jnz _ _ => true
  | .calls _ _ => true
  | .call _ _ => true
  | .ldr _ _ => true
  | .str _ _ => true
  | .ldc _ _ => true
  | .sys0 _ => true
  | .sys1 _ => true
  | .sys2 _ => true
  | .sys3 _ => true
  | .sys4 _ => true
  | .sys5 _ => true
  | .sysN _ imm => 6 ≤ imm.toNat

end Sys2Proof
end

