-- ==== Sys2Proof/Decode.lean ====
section
/-! DEFINITION. Decoding a 16-bit instruction word (30_encoding.md) and encoding an instruction.
Decode is total: every one of the 65536 words selects exactly one operation (R54, R61), so no word
is refused. What is refused, by `decodeTableWord`, is a number that is no 16-bit word. -/

namespace Sys2Proof

/-! ### Fields (R51, R52) -/

/-- The opcode, `w[15:12]`. -/
def fieldOpcode (w : Word) : BitVec 4 := w.extractLsb' 12 4

/-- The index field a, `w[11:8]`. -/
def fieldA (w : Word) : RegIx := (w.extractLsb' 8 4).toFin

/-- The index field b, `w[7:4]`. -/
def fieldB (w : Word) : RegIx := (w.extractLsb' 4 4).toFin

/-- The index field c, `w[3:0]`. -/
def fieldC (w : Word) : RegIx := (w.extractLsb' 0 4).toFin

/-- The immediate `imm = b*16 + c = w[7:0]` (R52). -/
def fieldImm (w : Word) : Byte := w.extractLsb' 0 8

/-! ### Selection of the operation (R54 to R60) -/

/-- Opcode 0 (R55): DIV, PUSH or HALT, in the rule's decision order. -/
def selectOpcode0 (a b c : RegIx) : Instr :=
  if b ≠ c then .div a b c else if a ≠ b then .push a b else .halt a

/-- Opcode 1 (R56): RET, POP or RECALL, in the rule's decision order. -/
def selectOpcode1 (a b c : RegIx) : Instr :=
  if a = b then .ret a c else if a = c then .pop a b else .recallBump a b c

/-- Opcode 15 (R60): the system call with the selector `imm`. -/
def selectSystemCall (a : RegIx) (imm : Byte) : Instr :=
  match imm.toNat with
  | 0 => .sys0 a
  | 1 => .sys1 a
  | 2 => .sys2 a
  | 3 => .sys3 a
  | 4 => .sys4 a
  | 5 => .sys5 a
  | _ => .sysN a imm

/-- The operation selected by an opcode and the fields (R54 to R60). -/
def select (opcode : BitVec 4) (a b c : RegIx) (imm : Byte) : Instr :=
  match opcode.toNat with
  | 0 => selectOpcode0 a b c
  | 1 => selectOpcode1 a b c
  | 2 => if b ≠ c then .clt a b c else .shl a b
  | 3 => if b ≠ c then .sub a b c else .shr a b
  | 4 => if b ≤ c then .ldx a b c else .add a b c
  | 5 => if b ≤ c then .stx a b c else .or a b c
  | 6 => if b ≤ c then .mul a b c else .and a b c
  | 7 => if b ≤ c then .callx a b c else .xor a b c
  | 8 => .jz a imm
  | 9 => .jnz a imm
  | 10 => .calls a imm
  | 11 => .call a imm
  | 12 => .ldr a imm
  | 13 => .str a imm
  | 14 => .ldc a imm
  | _ => selectSystemCall a imm

/-- The instruction a word stands for (R54): total, and a function of the word alone. -/
def decode (w : Word) : Instr :=
  select (fieldOpcode w) (fieldA w) (fieldB w) (fieldC w) (fieldImm w)

/-- The instruction read from an instruction's bits numbered as spec/opcode_table.json numbers them
(bit 0 the least significant). A word is one cell (R31, R50), so there is no byte order; a number
that does not fit 16 bits is no instruction. -/
def decodeTableWord (nbits w : Nat) : Option Instr :=
  if nbits ≤ 16 ∧ w < 2 ^ 16 then some (decode (BitVec.ofNat 16 w)) else none

/-! ### Encoding -/

/-- A word of format ABC, `w = opcode*4096 + a*256 + b*16 + c` (R51). -/
def wordABC (opcode : Nat) (a b c : RegIx) : Word :=
  BitVec.ofNat 16 (opcode * 4096 + a.val * 256 + b.val * 16 + c.val)

/-- A word of format AI, with `imm` in the low eight bits (R51, R52). -/
def wordAI (opcode : Nat) (a : RegIx) (imm : Byte) : Word :=
  BitVec.ofNat 16 (opcode * 4096 + a.val * 256 + imm.toNat)

/-- The word of an instruction (the "word" column of the table of R62). -/
def encode : Instr → Word
  | .div a b c => wordABC 0 a b c
  | .push a b => wordABC 0 a b b
  | .halt a => wordABC 0 a a a
  | .recallBump a b c => wordABC 1 a b c
  | .pop a b => wordABC 1 a b a
  | .ret a c => wordABC 1 a a c
  | .clt a b c => wordABC 2 a b c
  | .shl a b => wordABC 2 a b b
  | .sub a b c => wordABC 3 a b c
  | .shr a b => wordABC 3 a b b
  | .ldx a b c => wordABC 4 a b c
  | .add a b c => wordABC 4 a b c
  | .stx a b c => wordABC 5 a b c
  | .or a b c => wordABC 5 a b c
  | .mul a b c => wordABC 6 a b c
  | .and a b c => wordABC 6 a b c
  | .callx a b c => wordABC 7 a b c
  | .xor a b c => wordABC 7 a b c
  | .jz a imm => wordAI 8 a imm
  | .jnz a imm => wordAI 9 a imm
  | .calls a imm => wordAI 10 a imm
  | .call a imm => wordAI 11 a imm
  | .ldr a imm => wordAI 12 a imm
  | .str a imm => wordAI 13 a imm
  | .ldc a imm => wordAI 14 a imm
  | .sys0 a => wordAI 15 a 0
  | .sys1 a => wordAI 15 a 1
  | .sys2 a => wordAI 15 a 2
  | .sys3 a => wordAI 15 a 3
  | .sys4 a => wordAI 15 a 4
  | .sys5 a => wordAI 15 a 5
  | .sysN a imm => wordAI 15 a imm

end Sys2Proof
end

