-- ==== Sys2Proof/Config.lean ====
section
/-! DEFINITION. What is fixed for this machine: the sizes of R4 and the one parameter of
92_eei_decisions.md section 2 on which the engine itself depends, `CALLX_BASE` (D22). The other
parameters of that section concern only text outside the engine: `INT_TOKEN_FORMAT` (D8) is covered
by the free answers of `State.intAnswers`; `DUMP_MIN_INDEX` (D12) is 16 for the
register section, `Config.dumpMinRegisters`, and for the others an argument of the definitions in
Machine/Dumper.lean; `DUMP_NUMERAL` (D12) is left free there. -/

namespace Sys2Proof

/-- The number of general registers, NREG (R4). -/
def Config.registers : Nat := 16

/-- The number of data-memory cells, DMEM_CELLS (R4, R16). -/
def Config.dataCells : Nat := 256

/-- The number of instruction-memory cells, IMEM_CELLS (R4, R17). -/
def Config.instrCells : Nat := 256

/-- `DUMP_MIN_INDEX` for the register section of a dump: 16, so that all registers are always printed (the
default of D12, implied by the round trip of R130; 90_conflicts.md C9). -/
def Config.dumpMinRegisters : Nat := 16

/-- The two settings of the parameter `CALLX_BASE` (D22): which value of `x[a]` is the first
address term of CALLX. -/
inductive CallxBase where
  /-- `x[a]` after the link was written to it, that is `npc` (the default of D22, and R102). -/
  | link
  /-- `x[a]` as it was before the instruction. -/
  | old
deriving DecidableEq, Repr

/-- `CALLX_BASE`, at the default D22 gives it and R102 follows. The spec's own decision; see
notes/assumptions/6.md (unsafe: a claim about a program that runs CALLX holds for this setting). -/
def Config.callxBase : CallxBase := .link

end Sys2Proof
end

