-- ==== Sys2Proof/Machine/State.lean ====
section
/-! DEFINITION. The whole state of the engine (10_state.md section 1), with the environment's side
that a model keeps beside it (R19, R121), the reasons a step can stop, and reset (R23, R160). -/

namespace Sys2Proof.Machine

/-- A memory of cells `w` bits wide: (address, contents) pairs, addresses strictly rising, no cell
that holds 0 listed (`Memory.wf`). A cell that is not listed holds 0, the reset contents R23 gives.
Data memory is `Memory 8`, a list of `Host.Cell`; instruction memory is `Memory 16` (R16, R17). The
two are separate address spaces (R30). -/
abbrev Memory (w : Nat) := List (Nat × BitVec w)

/-- The environment's answer to `Env.ReadInt()` (R121): any integer, or failure (end of input or a
malformed token). -/
inductive IntAnswer where
  | ok (v : Int)
  | fail
deriving DecidableEq, Repr

/-- The environment's answer to `Env.ReadChar()` (R121): the non-negative code of one character, or
end of input. -/
inductive CharAnswer where
  | ok (k : Nat)
  | eof
deriving DecidableEq, Repr

/-- The copy of the Engine State that `Env.Dump` hands to the error stream (R123, R130). -/
structure Dump where
  regs : Vector Byte 16
  mem : Memory 8
  imem : Memory 16
  pc : Byte
deriving DecidableEq, Repr

/-- The state of the engine, and of its environment as far as the engine meets it. -/
structure State where
  /-- The general registers `x[0]` to `x[15]`, none hardwired (R10). -/
  regs : Vector Byte 16
  /-- The program counter, an index into instruction memory (R13). -/
  pc : Byte
  /-- Data memory, 256 cells of 8 bits (R16). -/
  mem : Memory 8
  /-- Instruction memory, 256 cells of 16 bits (R17). -/
  imem : Memory 16
  /-- Set by HALT; while it is set the engine takes no step (R18). -/
  halted : Bool
  /-- The exit status HALT delivers; without meaning while `halted` is clear (R18). -/
  exitStatus : Byte
  /-- The answers the environment has ready for `Env.ReadInt`, the next one first: any list of any
  answers (R19, R121; log entry 8). -/
  intAnswers : List IntAnswer
  /-- The answers the environment has ready for `Env.ReadChar`, the next one first (R19, R121; log
  entry 8). -/
  charAnswers : List CharAnswer
  /-- The output stream so far, a sequence of character codes, the latest last (R19, R132). -/
  output : List Byte
  /-- The error stream so far, the dumps of system call 0, the latest last (R19, R130, R132). -/
  dumps : List Dump
deriving DecidableEq, Repr

/-- The reasons a step has no defined meaning (R147). These are not hardware exceptions: the
hardware has none (R140). -/
inductive Fault where
  /-- Raised by DIV with `a == c`, `x[c] != 0` and `x[b] div x[c] = 0`: the remainder statement would
  divide by the quotient just written to `x[c]`, which is 0, and the spec gives that step no meaning
  (R70, R147). Safe: the model stops where the hardware does something unknown. -/
  | divAliasZero
deriving DecidableEq, Repr

/-- Why a load image is not acceptable (R168 to R170). -/
inductive ImageProblem where
  /-- More words than the destination holds: `n > 16`, `m > 256`, `k > 255` or `k + j > 256` (R168). -/
  | tooManyWords
  /-- A register or data word above 255, or an instruction word above 65535 (R169). -/
  | valueTooLarge
  /-- A character that is no digit of R163, no whitespace and not `%` (R170). -/
  | badCharacter
  /-- The stream ends before the fourth `%` (R170). -/
  | endOfStream
deriving DecidableEq, Repr

/-- The reasons something is refused. No step is ever refused: every word is a defined instruction
(R54, R61) and every one has its meaning. -/
inductive Refusal where
  /-- An instruction of the table that has no meaning yet, by its mnemonic: raised by a refused arm of
  `exec`, of which there is none now. Safe. -/
  | notModelled (mnemonic : String)
  /-- `ImageRejected` (R147): raised by the load of an image (`load`, Machine/Loader.lean), never by a
  step; the engine then never starts. Safe: it is the spec's own rule (R168 to R170). -/
  | imageRejected (why : ImageProblem)
deriving DecidableEq, Repr

/-- What a step answers. -/
abbrev Result := Host.Outcome State Fault Refusal

/-- The machine right after reset (R23, R160): every register, every data cell, every instruction cell
and `pc` zero, `halted` clear. `exitStatus` is unspecified there; 0 is this model's choice (DESIGN
CHOICE, log entry 1, unsafe). The environment has answered nothing and received nothing (log entry 9). -/
def State.reset : State where
  regs := Vector.replicate 16 0
  pc := 0
  mem := []
  imem := []
  halted := false
  exitStatus := 0
  intAnswers := []
  charAnswers := []
  output := []
  dumps := []

end Sys2Proof.Machine
end

