-- ==== Sys2Proof/Machine/Ops.lean ====
section
/-! DEFINITION. The named operations over registers, memories and the program counter that every
instruction is written with (00_scope.md R5, R7; 10_state.md R14, R15, R18; 20_memory.md). The
hardware has no exception, interrupt or trap: nothing is saved, no mode changes and there is no
return from one (R140, R142, R144, R145), so no operation here takes one. -/

namespace Sys2Proof.Machine

/-- `scale(x)`: the unique value in [0, 255] congruent to the integer `x` modulo 256 (R5). -/
def scale (x : Int) : Byte := BitVec.ofInt 8 x

/-! ### Memories -/

/-- The contents of a cell; a cell that is not listed holds 0 (R23). -/
def Memory.read {w : Nat} : Memory w → Nat → BitVec w
  | [], _ => 0
  | (k, v) :: rest, a => if k = a then v else Memory.read rest a

/-- Lists the cell `a` with the contents `v`, in address order, replacing what was listed for it. -/
def Memory.insert {w : Nat} : Memory w → Nat → BitVec w → Memory w
  | [], a, v => [(a, v)]
  | (k, u) :: rest, a, v =>
    if a < k then (a, v) :: (k, u) :: rest
    else if a = k then (a, v) :: rest
    else (k, u) :: Memory.insert rest a v

/-- Writes `v` to the cell `a`; writing 0, which an unlisted cell holds, removes the entry, so that
equal memories are equal lists. -/
def Memory.write {w : Nat} (m : Memory w) (a : Nat) (v : BitVec w) : Memory w :=
  if v = 0 then m.filter (fun cell => cell.1 ≠ a) else m.insert a v

/-- The cells listed have strictly rising addresses, at least `lo` and below `size`, and none holds 0. -/
def Memory.wfFrom {w : Nat} (size : Nat) : Nat → Memory w → Bool
  | _, [] => true
  | lo, (k, v) :: rest => lo ≤ k && k < size && v ≠ 0 && Memory.wfFrom size (k + 1) rest

/-- The canonical form of a memory of `size` cells: addresses strictly rising and inside the memory,
and no entry equal to what an unlisted cell holds. -/
def Memory.wf {w : Nat} (size : Nat) (m : Memory w) : Bool := Memory.wfFrom size 0 m

/-! ### Registers -/

/-- `x[i]` as an 8-bit value (R7). -/
def State.reg (s : State) (i : RegIx) : Byte := s.regs[i]

/-- `x[i]` as an integer in [0, 255] (R6, R10). -/
def State.val (s : State) (i : RegIx) : Nat := (s.reg i).toNat

/-- `x[i] <- v` (R7). No register is hardwired: every write is kept (R10). -/
def State.setReg (s : State) (i : RegIx) (v : Byte) : State := { s with regs := s.regs.set i v }

/-! ### Data memory and instruction memory -/

/-- `MemRead(a, 1)`: the data cell `a` (R7, R34). Every address is a cell of the memory (R37). -/
def State.readMem (s : State) (a : Byte) : Byte := s.mem.read a.toNat

/-- `MemWrite(a, 1, v)` (R7, R34). -/
def State.writeMem (s : State) (a v : Byte) : State := { s with mem := s.mem.write a.toNat v }

/-- `IMemRead(a)`: the instruction cell `a` (R7). Only the fetch uses it (R41). -/
def State.readImem (s : State) (a : Byte) : Word := s.imem.read a.toNat

/-- The word at `pc`, which the step fetches (R14). -/
def State.fetch (s : State) : Word := s.readImem s.pc

/-! ### Program counter -/

/-- `npc`, the "old program_counter": the address after the executing instruction, modulo 256 (R15).
It is read in the state at the instruction, before `State.advance`. -/
def State.npc (s : State) : Byte := s.pc + 1

/-- `pc <- t` (R7). -/
def State.setPc (s : State) (t : Byte) : State := { s with pc := t }

/-- The default advance of the step, made before the operation executes (R14). -/
def State.advance (s : State) : State := s.setPc s.npc

/-! ### Halt -/

/-- `halt(status)`: the latch and the exit status (R18, R120). -/
def State.halt (s : State) (status : Byte) : State := { s with halted := true, exitStatus := status }

/-- What a halted engine answers when a step is asked of it: it takes none, so nothing changes (R18).
Log entry 10. -/
def haltedStep (s : State) : Result := .next s

/-! ### The state's invariant, and placing an instruction -/

/-- The copy a dump carries holds memories in canonical form. -/
def Dump.wf (d : Dump) : Bool := d.mem.wf Config.dataCells && d.imem.wf Config.instrCells

/-- The data form of R24: both memories, and those of every dump handed over, are in canonical form
with exactly 256 cells each. (That registers, cells and `pc` are in range is their type.) -/
def State.wf (s : State) : Bool :=
  s.mem.wf Config.dataCells && s.imem.wf Config.instrCells && s.dumps.all Dump.wf

/-- The state with the word `w` where the next step fetches, and the engine not halted: the load of
one instruction, from outside the machine (R42; log entry 11). -/
def State.placeInstruction (s : State) (w : Word) : State :=
  { s with imem := s.imem.write s.pc.toNat w, halted := false }

/-- The state of an outcome that is a next state. -/
def nextState : Result → Option State
  | .next s => some s
  | .fault _ => none
  | .refused _ => none

/-- The fault of an outcome that is a fault. -/
def faultOf : Result → Option Fault
  | .next _ => none
  | .fault r => some r
  | .refused _ => none

end Sys2Proof.Machine
end

