-- ==== Sys2Proof/Machine/Operands.lean ====
section
/-! DEFINITION. The operand forms: the implied second register `a1`, and the four ways an
instruction forms a data-memory address (30_encoding.md R53; 20_memory.md R35, R36;
41_load_store_stack.md). -/

namespace Sys2Proof.Machine

/-- `a1 = (a + 1) mod 16`, the source's "next" register (R7, R12, R53). -/
def nextReg (a : RegIx) : RegIx := a + 1

/-- The indexed address, register plus register modulo 256 (R35, R36; log entry 4). -/
def indexedAddr (x y : Byte) : Byte := scale (x.toNat + y.toNat)

/-- The pre-decrement of PUSH and CALL: `x[a] <- scale(x[a] - 1)`. The address is `x[a]` after it
(R35). -/
def State.preDecrement (s : State) (a : RegIx) : State := s.setReg a (scale (s.val a - 1))

/-- The post-increment of POP: `x[a] <- scale(x[a] + 1)`. The address is `x[a]` before it (R35). -/
def State.postIncrement (s : State) (a : RegIx) : State := s.setReg a (scale (s.val a + 1))

/-- The bump of RECALL: `x[a] <- scale(x[a] + x[c] + 1)`. The address is `x[a]` before it (R35, R100). -/
def State.bump (s : State) (a c : RegIx) : State := s.setReg a (scale (s.val a + s.val c + 1))

/-- The two-source operations and the shifts: `x[a] <- scale(f(x[b], x[c]))`, all sources read before
the write, `pc` at its default successor (R8, R81, R82). -/
def registerOp (f : Int → Int → Int) (a b c : RegIx) (s : State) : State :=
  s.advance.setReg a (scale (f (s.val b) (s.val c)))

end Sys2Proof.Machine
end

