-- ==== Sys2Proof/Machine/Flags.lean ====
section
/-! DEFINITION. The hardware has no status flags, condition codes or predicate registers (10_state.md
R20). What stands in their place is the value 0 or 1 in a general register: the result of CLT (R72),
and the success flag of system calls 1 and 3 in `x[a1]` (60_exceptions.md R151). -/

namespace Sys2Proof.Machine

/-- The value 1 for true and 0 for false (R20, R72, R151). -/
def flagByte (b : Bool) : Byte := if b then 1 else 0

/-- The register-flag protocol of system calls 1 and 3 (R124, R126, R151): on success `x[a1] <- 1`
and then `x[a] <- scale(v)`; on failure `x[a1] <- 0` and `x[a]` is unchanged. -/
def State.reportRead (s : State) (a : RegIx) : Option Int → State
  | some v => (s.setReg (nextReg a) (flagByte true)).setReg a (scale v)
  | none => s.setReg (nextReg a) (flagByte false)

end Sys2Proof.Machine
end

