-- ==== Sys2Proof/Machine/Arithmetic.lean ====
section
/-! DEFINITION. The arithmetic, logic and constant instructions (40_arithmetic_logic.md). Each meaning
runs from the state at the instruction: `State.advance` is the default advance of R14. Statements
execute in the order written, each seeing the writes before it (R8). -/

namespace Sys2Proof.Machine

/-- DIV (R70). Division by zero is a no-op, tested once, before either write. The remainder statement
reads the registers after the quotient is written: with `a == b` or `a == c` it sees the quotient, and
a zero quotient as divisor has no meaning (`divAliasZero`, R147). -/
def execDiv (a b c : RegIx) (s : State) : Result :=
  if s.val c = 0 then .next s.advance
  else
    let s1 := s.advance.setReg a (scale (s.val b / s.val c : Nat))
    if s1.val c = 0 then .fault .divAliasZero
    else .next (s1.setReg (nextReg a) (scale (s1.val b % s1.val c : Nat)))

/-- MUL (R71): the high byte is written first, and the low byte is computed from the registers as they
are then. -/
def execMul (a b c : RegIx) (s : State) : Result :=
  let s1 := s.advance.setReg (nextReg a) (scale (s.val b * s.val c / 256 : Nat))
  .next (s1.setReg a (scale (s1.val b * s1.val c % 256 : Nat)))

/-- CLT (R72): 1 if `x[b] < x[c]` as unsigned values, else 0. -/
def execClt (a b c : RegIx) (s : State) : Result :=
  .next (s.advance.setReg a (flagByte (s.val b < s.val c)))

/-- SHL (R73): `scale(x[b] << 1)`. -/
def execShl (a b : RegIx) (s : State) : Result :=
  .next (registerOp (fun x _ => x * 2) a b b s)

/-- SUB (R74): `scale(x[b] - x[c])`. -/
def execSub (a b c : RegIx) (s : State) : Result :=
  .next (registerOp (fun x y => x - y) a b c s)

/-- SHR (R75): `scale(x[b] >> 1)`, a logical shift. -/
def execShr (a b : RegIx) (s : State) : Result :=
  .next (registerOp (fun x _ => x / 2) a b b s)

/-- ADD (R76): `scale(x[b] + x[c])`. -/
def execAdd (a b c : RegIx) (s : State) : Result :=
  .next (registerOp (fun x y => x + y) a b c s)

/-- OR (R77): `scale(x[b] | x[c])`; `scale` is the identity, as the result is a value 0 to 255. -/
def execOr (a b c : RegIx) (s : State) : Result :=
  .next (s.advance.setReg a (s.reg b ||| s.reg c))

/-- AND (R78): `scale(x[b] & x[c])`; `scale` is the identity. -/
def execAnd (a b c : RegIx) (s : State) : Result :=
  .next (s.advance.setReg a (s.reg b &&& s.reg c))

/-- XOR (R79): `scale(x[b] ^ x[c])`; `scale` is the identity. -/
def execXor (a b c : RegIx) (s : State) : Result :=
  .next (s.advance.setReg a (s.reg b ^^^ s.reg c))

/-- LDC (R80): `x[a] <- scale(imm)`; `scale` is the identity. -/
def execLdc (a : RegIx) (imm : Byte) (s : State) : Result :=
  .next (s.advance.setReg a imm)

end Sys2Proof.Machine
end

