-- ==== Sys2Proof/Machine/ControlTransfer.lean ====
section
/-! DEFINITION. The control-transfer instructions (42_control_transfer.md). Targets are absolute cell
numbers; the return address saved is `npc`; there are no delay slots (R107). -/

namespace Sys2Proof.Machine

/-- RECALL (R100): `pc` and the cell at the stack pointer exchange values, `pc` holding `npc` at that
point; then the stack pointer is raised by `x[c] + 1`; then `x[b]` receives `npc`. -/
def execRecall (a b c : RegIx) (s : State) : Result :=
  let t := s.readMem (s.reg a)
  let s1 := (s.advance.writeMem (s.reg a) s.npc).setPc t
  .next ((s1.bump a c).setReg b s.npc)

/-- RET (R101): the link is written, then `pc` is read from `x[c]`; with `c == a` that is the link
itself, and no transfer happens. -/
def execRet (a c : RegIx) (s : State) : Result :=
  let s1 := s.advance.setReg a s.npc
  .next (s1.setPc (s1.reg c))

/-- The address of CALLX's target under a setting of `CALLX_BASE` (D22): `s` is the state before the
instruction and `linked` the state after the link was written to `x[a]`. Under `old`, D22 names only the
first term as old; that the second term `x[b]` too is read before the link, which shows only with
`a == b`, is this model's choice (DESIGN CHOICE, log entry 25). It has no effect at `link`, the setting
of `Config.callxBase`. -/
def callxAddr (base : CallxBase) (a b : RegIx) (s linked : State) : Byte :=
  match base with
  | .link => indexedAddr (linked.reg a) (linked.reg b)
  | .old => indexedAddr (s.reg a) (s.reg b)

/-- CALLX (R102): the link is written to `x[a]`, and the target is the data cell at
`(x[a] + x[b]) mod 256` (under `CALLX_BASE = link`, the setting of R102). -/
def execCallx (a b _c : RegIx) (s : State) : Result :=
  let s1 := s.advance.setReg a s.npc
  .next (s1.setPc (s1.readMem (callxAddr Config.callxBase a b s s1)))

/-- JZ (R103). -/
def execJz (a : RegIx) (imm : Byte) (s : State) : Result :=
  .next (if s.val a = 0 then s.advance.setPc imm else s.advance)

/-- JNZ (R104). -/
def execJnz (a : RegIx) (imm : Byte) (s : State) : Result :=
  .next (if s.val a ≠ 0 then s.advance.setPc imm else s.advance)

/-- CALLS (R105): the link in a register. -/
def execCalls (a : RegIx) (imm : Byte) (s : State) : Result :=
  .next ((s.advance.setReg a s.npc).setPc imm)

/-- CALL (R106): the return address is pushed as PUSH pushes a register. -/
def execCall (a : RegIx) (imm : Byte) (s : State) : Result :=
  let s1 := s.advance.preDecrement a
  .next ((s1.writeMem (s1.reg a) s.npc).setPc imm)

end Sys2Proof.Machine
end

