-- ==== Sys2Proof/Machine/LoadStore.lean ====
section
/-! DEFINITION. The load, store and stack instructions (41_load_store_stack.md). Every access is one
data cell (R34). -/

namespace Sys2Proof.Machine

/-- PUSH (R90): the stack pointer is decremented, then `x[b]` is stored at the decremented address. -/
def execPush (a b : RegIx) (s : State) : Result :=
  let s1 := s.advance.preDecrement a
  .next (s1.writeMem (s1.reg a) (s1.reg b))

/-- POP (R91): the cell at the stack pointer is loaded, then the stack pointer is incremented. -/
def execPop (a b : RegIx) (s : State) : Result :=
  .next ((s.advance.setReg b (s.readMem (s.reg a))).postIncrement a)

/-- LDX (R92). -/
def execLdx (a b c : RegIx) (s : State) : Result :=
  .next (s.advance.setReg a (s.readMem (indexedAddr (s.reg b) (s.reg c))))

/-- STX (R93). -/
def execStx (a b c : RegIx) (s : State) : Result :=
  .next (s.advance.writeMem (indexedAddr (s.reg b) (s.reg c)) (s.reg a))

/-- LDR (R94). -/
def execLdr (a : RegIx) (imm : Byte) (s : State) : Result :=
  .next (s.advance.setReg a (s.readMem imm))

/-- STR (R95). -/
def execStr (a : RegIx) (imm : Byte) (s : State) : Result :=
  .next (s.advance.writeMem imm (s.reg a))

end Sys2Proof.Machine
end

