-- ==== Sys2Proof/Machine/Environment.lean ====
section
/-! DEFINITION. The requests the engine makes to its environment while it executes opcode 15
(43_system.md R121): reading an integer or a character, writing a decimal integer or a character, and
the dump. A request is part of the step that makes it (R9). -/

namespace Sys2Proof.Machine

/-- The value an answer to `Env.ReadInt` delivers, if it is a success. -/
def IntAnswer.value : IntAnswer → Option Int
  | .ok v => some v
  | .fail => none

/-- The value an answer to `Env.ReadChar` delivers, if it is a success. -/
def CharAnswer.value : CharAnswer → Option Int
  | .ok k => some k
  | .eof => none

/-- `Env.ReadInt()`: the next answer and the state without it; none while the environment has not
answered (R121, R131). -/
def State.readInt (s : State) : Option (IntAnswer × State) :=
  match s.intAnswers with
  | [] => none
  | r :: rest => some (r, { s with intAnswers := rest })

/-- `Env.ReadChar()`: the next answer and the state without it; none while the environment has not
answered (R121, R131). -/
def State.readChar (s : State) : Option (CharAnswer × State) :=
  match s.charAnswers with
  | [] => none
  | r :: rest => some (r, { s with charAnswers := rest })

/-- The state while a read waits for its answer: the step does not complete, and no state changes,
`pc` included (R131; log entry 8). -/
def waiting (s : State) : Result := .next s

/-- Appends character codes to the output stream (R132). -/
def State.emit (s : State) (codes : List Byte) : State := { s with output := s.output ++ codes }

/-- `Env.WriteChar(v)`: appends the one character whose code is `v` (R121, R127). -/
def State.writeChar (s : State) (v : Byte) : State := s.emit [v]

/-- The code of the decimal digit `d`: `0` to `9` are 48 to 57 (R125; log entry 7). -/
def digitCode (d : Nat) : Byte := BitVec.ofNat 8 (48 + d)

/-- The decimal numeral of a value 0 to 255: one to three digits, the most significant first, no sign,
no leading zero, no padding (R125, D9). -/
def decimalCodes (v : Byte) : List Byte :=
  let n := v.toNat
  if n < 10 then [digitCode n]
  else if n < 100 then [digitCode (n / 10), digitCode (n % 10)]
  else [digitCode (n / 100), digitCode (n / 10 % 10), digitCode (n % 10)]

/-- `Env.WriteDec(v)`: appends the decimal numeral of `v`, with nothing before or after it (R125). -/
def State.writeDec (s : State) (v : Byte) : State := s.emit (decimalCodes v)

/-- The non-zero cells met from address `i` upward, over at most `cells` cells: the scan of system
call 5 (R128). -/
def scanString (m : Memory 8) : (cells i : Nat) → List Byte
  | 0, _ => []
  | cells + 1, i =>
    let v := m.read i
    if v = 0 then [] else v :: scanString m cells (i + 1)

/-- The string in data memory at address `i`: it stops at the first zero cell, which is not part of it,
or after cell 255, without wrapping (R128, D11). -/
def State.stringAt (s : State) (i : Byte) : List Byte :=
  scanString s.mem (Config.dataCells - i.toNat) i.toNat

/-- The copy of the Engine State that a dump carries (R123). -/
def State.snapshot (s : State) : Dump := ⟨s.regs, s.mem, s.imem, s.pc⟩

/-- `Env.Dump(S)`: hands a copy of the Engine State to the error stream (R121, R123). -/
def State.dump (s : State) : State := { s with dumps := s.dumps ++ [s.snapshot] }

end Sys2Proof.Machine
end

