-- ==== Sys2Proof/Machine/System.lean ====
section
/-! DEFINITION. HALT and the system calls (43_system.md). There is one mode, and every instruction may
run in it (R146). Every system call leaves `pc` at `npc` (R122); a read whose answer has not come
leaves the whole state as it is (R131). -/

namespace Sys2Proof.Machine

/-- HALT (R120): `exit_status <- x[a]`, `halted <- 1`; `pc` is one past the HALT. -/
def execHalt (a : RegIx) (s : State) : Result :=
  .next (s.advance.halt (s.reg a))

/-- SYS a, 0 (R123): the dump; the copy shows `pc = npc`. The index a is ignored. -/
def execSys0 (_a : RegIx) (s : State) : Result :=
  .next s.advance.dump

/-- SYS a, 1 (R124): read an integer. -/
def execSys1 (a : RegIx) (s : State) : Result :=
  match s.readInt with
  | none => waiting s
  | some (r, s1) => .next (s1.advance.reportRead a r.value)

/-- SYS a, 2 (R125): write `x[a]` as a decimal integer. -/
def execSys2 (a : RegIx) (s : State) : Result :=
  .next (s.advance.writeDec (s.reg a))

/-- SYS a, 3 (R126): read a character. -/
def execSys3 (a : RegIx) (s : State) : Result :=
  match s.readChar with
  | none => waiting s
  | some (r, s1) => .next (s1.advance.reportRead a r.value)

/-- SYS a, 4 (R127): write the character whose code is `x[a]`. -/
def execSys4 (a : RegIx) (s : State) : Result :=
  .next (s.advance.writeChar (s.reg a))

/-- SYS a, 5 (R128): write the string in data memory at `x[a]`. -/
def execSys5 (a : RegIx) (s : State) : Result :=
  .next (s.advance.emit (s.stringAt (s.reg a)))

/-- SYS a, n with n from 6 to 255 (R129): nothing but the advance of `pc`. -/
def execSysN (_a : RegIx) (_imm : Byte) (s : State) : Result :=
  .next s.advance

end Sys2Proof.Machine
end

