-- ==== Sys2Proof/Machine/Dispatch.lean ====
section
/-! DEFINITION. Which meaning each instruction has: one arm per constructor of `Instr`. A meaning runs
from the state at the instruction, before `pc` is advanced, and makes the default advance of R14
itself. -/

namespace Sys2Proof.Machine

def exec (i : Instr) (s : State) : Host.Outcome State Fault Refusal :=
  match i with
  | .div a b c => Sys2Proof.Machine.execDiv a b c s
  | .push a b => Sys2Proof.Machine.execPush a b s
  | .halt a => Sys2Proof.Machine.execHalt a s
  | .recallBump a b c => Sys2Proof.Machine.execRecall a b c s
  | .pop a b => Sys2Proof.Machine.execPop a b s
  | .ret a c => Sys2Proof.Machine.execRet a c s
  | .clt a b c => Sys2Proof.Machine.execClt a b c s
  | .shl a b => Sys2Proof.Machine.execShl a b s
  | .sub a b c => Sys2Proof.Machine.execSub a b c s
  | .shr a b => Sys2Proof.Machine.execShr a b s
  | .ldx a b c => Sys2Proof.Machine.execLdx a b c s
  | .add a b c => Sys2Proof.Machine.execAdd a b c s
  | .stx a b c => Sys2Proof.Machine.execStx a b c s
  | .or a b c => Sys2Proof.Machine.execOr a b c s
  | .mul a b c => Sys2Proof.Machine.execMul a b c s
  | .and a b c => Sys2Proof.Machine.execAnd a b c s
  | .callx a b c => Sys2Proof.Machine.execCallx a b c s
  | .xor a b c => Sys2Proof.Machine.execXor a b c s
  | .jz a imm => Sys2Proof.Machine.execJz a imm s
  | .jnz a imm => Sys2Proof.Machine.execJnz a imm s
  | .calls a imm => Sys2Proof.Machine.execCalls a imm s
  | .call a imm => Sys2Proof.Machine.execCall a imm s
  | .ldr a imm => Sys2Proof.Machine.execLdr a imm s
  | .str a imm => Sys2Proof.Machine.execStr a imm s
  | .ldc a imm => Sys2Proof.Machine.execLdc a imm s
  | .sys0 a => Sys2Proof.Machine.execSys0 a s
  | .sys1 a => Sys2Proof.Machine.execSys1 a s
  | .sys2 a => Sys2Proof.Machine.execSys2 a s
  | .sys3 a => Sys2Proof.Machine.execSys3 a s
  | .sys4 a => Sys2Proof.Machine.execSys4 a s
  | .sys5 a => Sys2Proof.Machine.execSys5 a s
  | .sysN a imm => Sys2Proof.Machine.execSysN a imm s

end Sys2Proof.Machine
end

