-- ==== Sys2Proof/Machine/Step.lean ====
section
/-! DEFINITION. The step of the engine (10_state.md R14): fetch at `pc`, decode, execute. It is one
indivisible step (R9), taken only while the engine is not halted (R18). -/

namespace Sys2Proof.Machine

/-- One step. The default advance of `pc` is made by the meaning `exec` calls. -/
def step (s : State) : Host.Outcome State Fault Refusal :=
  if s.halted then haltedStep s else exec (decode s.fetch) s

/-- The state whose very next step fetches and runs the instruction whose bits are `w`, numbered as
spec/opcode_table.json numbers them; every bit above `nbits` is 0. -/
def State.withFetchWord (s : State) (nbits w : Nat) : State :=
  s.placeInstruction (BitVec.ofNat 16 (w % 2 ^ nbits))

end Sys2Proof.Machine
end

