-- ==== Sys2Proof/Machine/Loader.lean ====
section
/-! DEFINITION. The load of an image, by which a host fills the Engine State between reset and the
first step (70_reset_and_hazards.md R161 to R171): the numeral decoder, the cutting of the stream into
words and sections, and where the words go. It is no step of the engine. -/

namespace Sys2Proof.Machine

/-! ### Numerals (R163, R164) -/

/-- A digit of a word: its own value and its own base. -/
structure Digit where
  value : Nat
  base : Nat
deriving DecidableEq, Repr

/-- The numeral table of R163; none for a character outside it. `A` is 0 and `P` is 15. -/
def digit (ch : Char) : Option Digit :=
  let n := ch.toNat
  if '0'.toNat ≤ n ∧ n ≤ '9'.toNat then some ⟨n - '0'.toNat, 10⟩
  else if 'A'.toNat ≤ n ∧ n ≤ 'P'.toNat then some ⟨n - 'A'.toNat, 16⟩
  else if 'Q'.toNat ≤ n ∧ n ≤ 'X'.toNat then some ⟨n - 'Q'.toNat, 8⟩
  else if n = 'Y'.toNat then some ⟨1, 2⟩
  else if n = 'Z'.toNat then some ⟨0, 2⟩
  else none

/-- The accumulator after one more digit (R164): the first digit seeds it, and its base is not used;
a later digit multiplies it by that digit's own base. -/
def accumulate (acc : Option Nat) (d : Digit) : Nat :=
  match acc with
  | none => d.value
  | some n => n * d.base + d.value

/-- The value of a word, from the accumulator of the characters before: none if a character is no
digit, or if there is no character at all. -/
def wordValueFrom : Option Nat → List Char → Option Nat
  | acc, [] => acc
  | acc, ch :: rest =>
    match digit ch with
    | none => none
    | some d => wordValueFrom (some (accumulate acc d)) rest

/-- The value of a word (R164). -/
def wordValue (chars : List Char) : Option Nat := wordValueFrom none chars

/-! ### Words and sections (R162, R165) -/

/-- Whitespace: space, tab, line feed, form feed and vertical tab, and nothing else (R165). -/
def isWhitespace (ch : Char) : Bool :=
  ch = ' ' || ch = '\t' || ch = '\n' || ch = '\x0c' || ch = '\x0b'

/-- The section terminator (R165). -/
def terminator : Char := '%'

/-- Reads a section up to and with its terminator: its words, and the rest of the stream. `acc` is the
value of the run being read, none between runs. A run ends at whitespace or at the terminator; a
terminator with no digit directly before it yields no word (R165, D17). -/
def parseSection : Option Nat → List Char → Except ImageProblem (List Nat × List Char)
  | _, [] => .error .endOfStream
  | acc, ch :: rest =>
    if ch = terminator then .ok (acc.toList, rest)
    else if isWhitespace ch then
      match parseSection none rest with
      | .error e => .error e
      | .ok (words, rest') => .ok (acc.toList ++ words, rest')
    else
      match digit ch with
      | none => .error .badCharacter
      | some d => parseSection (some (accumulate acc d)) rest

/-- The words of the four sections of an image, in order (R162). -/
structure Sections where
  registers : List Nat
  memory : List Nat
  firstInstructions : List Nat
  secondInstructions : List Nat
deriving DecidableEq, Repr

/-- Reads the four sections; what follows the fourth terminator is left in the stream (R162, R170). -/
def parseImage (stream : List Char) : Except ImageProblem (Sections × List Char) :=
  match parseSection none stream with
  | .error e => .error e
  | .ok (registers, stream1) =>
    match parseSection none stream1 with
    | .error e => .error e
    | .ok (memory, stream2) =>
      match parseSection none stream2 with
      | .error e => .error e
      | .ok (first, stream3) =>
        match parseSection none stream3 with
        | .error e => .error e
        | .ok (second, stream4) => .ok (⟨registers, memory, first, second⟩, stream4)

/-! ### Where the words go (R166 to R169) -/

/-- Why the sections are not acceptable, if they are not (R168, R169). -/
def Sections.problem (x : Sections) : Option ImageProblem :=
  if 16 < x.registers.length ∨ 256 < x.memory.length ∨ 255 < x.firstInstructions.length ∨
      256 < x.firstInstructions.length + x.secondInstructions.length then some .tooManyWords
  else if x.registers.any (255 < ·) || x.memory.any (255 < ·) ||
      x.firstInstructions.any (65535 < ·) || x.secondInstructions.any (65535 < ·) then
    some .valueTooLarge
  else none

/-- Words into the registers from `x[i]` on (R166). -/
def State.loadRegs (s : State) (i : Nat) : List Nat → State
  | [] => s
  | word :: words => (s.setReg (Fin.ofNat 16 i) (BitVec.ofNat 8 word)).loadRegs (i + 1) words

/-- Words into the cells of a memory from address `a` on (R166). -/
def Memory.fill {w : Nat} (m : Memory w) (a : Nat) : List Nat → Memory w
  | [] => m
  | word :: words => Memory.fill (m.write a (BitVec.ofNat w word)) (a + 1) words

/-- The state the sections load, from reset: the words stored as they are, everything else left at its
reset value, and `pc` the number of words in the first instruction section (R166, R167). -/
def Sections.loaded (x : Sections) : State :=
  let s := State.reset.loadRegs 0 x.registers
  let k := x.firstInstructions.length
  { s with
    mem := s.mem.fill 0 x.memory
    imem := (s.imem.fill 0 x.firstInstructions).fill k x.secondInstructions
    pc := BitVec.ofNat 8 k }

/-- What the load of an image comes to. -/
inductive LoadResult where
  /-- The state the run starts in, and what is left of the input stream for the run (R19, R162). -/
  | loaded (s : State) (rest : List Char)
  /-- The image is refused and the engine never starts (R147, R168). -/
  | rejected (r : Refusal)
deriving DecidableEq, Repr

/-- The load of sections already cut. -/
def loadSections (x : Sections) (rest : List Char) : LoadResult :=
  match x.problem with
  | some why => .rejected (.imageRejected why)
  | none => .loaded x.loaded rest

/-- The load: reset, then the image at the front of the input stream (R161, R162). -/
def load (stream : List Char) : LoadResult :=
  match parseImage stream with
  | .error why => .rejected (.imageRejected why)
  | .ok (x, rest) => loadSections x rest

end Sys2Proof.Machine
end

