-- ==== Sys2Proof/Machine/Dumper.lean ====
section
/-! DEFINITION. What a dump renders (43_system.md R130): four sections of words in the order of the load
image. The spelling of a value is open (`DUMP_NUMERAL`, D12) and so is the placing of line breaks around
the terminators, so the text of a dump is any text of values and line breaks that reads as its sections;
the least number of words of a section (`DUMP_MIN_INDEX`, D12) is 16 for the registers, and for the
second and fourth section it is open and an argument. -/

namespace Sys2Proof.Machine

/-- `DUMP_MIN_INDEX` (D12) where it is open: the least number of cells that the data-memory section and the
fourth section, which leave out trailing zeros, still print. For the register section it is
`Config.dumpMinRegisters`; the third section has none, as its count of words is `pc` (R130; log entry 12). -/
structure MinIndex where
  memory : Nat
  secondInstructions : Nat
deriving DecidableEq, Repr

/-- One past the last non-zero word, 0 if all are zero. -/
def lastNonzeroEnd : List Nat → Nat
  | [] => 0
  | word :: words =>
    match lastNonzeroEnd words with
    | 0 => if word = 0 then 0 else 1
    | n + 1 => n + 2

/-- The words without the trailing zeros, but at least `least` of them (R130). -/
def dropTrailingZeros (least : Nat) (words : List Nat) : List Nat :=
  words.take (max least (lastNonzeroEnd words))

/-- The contents of the cells from `first` up to, not including, `last`. -/
def Memory.words {w : Nat} (m : Memory w) (first last : Nat) : List Nat :=
  (List.range' first (last - first)).map fun a => (m.read a).toNat

/-- The four sections a dump renders: all 16 registers, data memory, the instruction cells below `pc`, and
those from `pc` up (R130). -/
def Dump.sections (d : Dump) (least : MinIndex) : Sections where
  registers := dropTrailingZeros Config.dumpMinRegisters (d.regs.toList.map BitVec.toNat)
  memory := dropTrailingZeros least.memory (d.mem.words 0 Config.dataCells)
  firstInstructions := d.imem.words 0 d.pc.toNat
  secondInstructions :=
    dropTrailingZeros least.secondInstructions (d.imem.words d.pc.toNat Config.instrCells)

/-- A line break of a dump's text: a line feed (DEDUCED, log entry 24: R130 says only "line breaks", and
the text is to be read by the loader, to which a carriage return is no whitespace, R165). -/
def lineBreak : Char := '\n'

/-- The text renders the dump: values are separated by line breaks and by no other whitespace, and the
loader's reading of it is the dump's sections, with nothing but line breaks after the fourth terminator
(R130). Where line breaks stand around a terminator is open in R130; this model allows any number of
them, none included, before and after each terminator, the fourth too, and before the first value, and
one or more between two values (DESIGN CHOICE, log entry 24). Any spelling of a value is allowed
(`DUMP_NUMERAL`, D12; log entry 16). -/
def Dump.renderedBy (d : Dump) (least : MinIndex) (text : List Char) : Prop :=
  (∀ ch ∈ text, isWhitespace ch = true → ch = lineBreak) ∧
    ∃ rest, parseImage text = .ok (d.sections least, rest) ∧ ∀ ch ∈ rest, ch = lineBreak

end Sys2Proof.Machine
end

