-- ==== Sys2Proof/Safety.lean ====
section
/-! DEFINITION. The terms claims about the engine are made in: what stays unchanged, what a step does
besides, when the engine waits, and what the outside sees of a finished run. -/

namespace Sys2Proof

/-- The instructions that may write `pc` besides the default advance (R107). -/
def Instr.transfers : Instr → Bool
  | .recallBump .. | .ret .. | .callx .. | .jz .. | .jnz .. | .calls .. | .call .. => true
  | .div .. | .push .. | .halt .. | .pop .. | .clt .. | .shl .. | .sub .. | .shr ..
  | .ldx .. | .add .. | .stx .. | .or .. | .mul .. | .and .. | .xor .. | .ldr ..
  | .str .. | .ldc .. | .sys0 .. | .sys1 .. | .sys2 .. | .sys3 .. | .sys4 .. | .sys5 ..
  | .sysN .. => false

/-- The instructions that store to data memory (R30, R41). -/
def Instr.storesData : Instr → Bool
  | .push .. | .recallBump .. | .stx .. | .call .. | .str .. => true
  | .div .. | .halt .. | .pop .. | .ret .. | .clt .. | .shl .. | .sub .. | .shr ..
  | .ldx .. | .add .. | .or .. | .mul .. | .and .. | .callx .. | .xor .. | .jz ..
  | .jnz .. | .calls .. | .ldr .. | .ldc .. | .sys0 .. | .sys1 .. | .sys2 .. | .sys3 ..
  | .sys4 .. | .sys5 .. | .sysN .. => false

end Sys2Proof

namespace Sys2Proof.Machine

/-- Every register but those of the list holds what it held. -/
def RegsKeptBut (s t : State) (written : List RegIx) : Prop :=
  ∀ r : RegIx, r ∉ written → t.reg r = s.reg r

/-- Every data cell reads as before. -/
def DataKept (s t : State) : Prop := ∀ a : Byte, t.readMem a = s.readMem a

/-- Every data cell but the one at `addr` reads as before. -/
def DataKeptBut (s t : State) (addr : Byte) : Prop :=
  ∀ a : Byte, a ≠ addr → t.readMem a = s.readMem a

/-- Every instruction cell reads as before. -/
def InstructionsKept (s t : State) : Prop := ∀ a : Byte, t.readImem a = s.readImem a

/-- The halt latch and the exit status are as before. -/
def HaltKept (s t : State) : Prop := t.halted = s.halted ∧ t.exitStatus = s.exitStatus

/-- No answer of the environment was taken. -/
def AnswersKept (s t : State) : Prop :=
  t.intAnswers = s.intAnswers ∧ t.charAnswers = s.charAnswers

/-- Nothing was written to the output stream or the error stream. -/
def StreamsKept (s t : State) : Prop := t.output = s.output ∧ t.dumps = s.dumps

/-- What every instruction but HALT and the system calls leaves alone: instruction memory, the halt
latch and the exit status, and the environment. -/
def MachineKept (s t : State) : Prop :=
  InstructionsKept s t ∧ HaltKept s t ∧ AnswersKept s t ∧ StreamsKept s t

/-- The step to come is a read whose answer has not come (R131). -/
def State.waits (s : State) : Bool :=
  !s.halted && match decode s.fetch with
    | .sys1 _ => s.intAnswers.isEmpty
    | .sys3 _ => s.charAnswers.isEmpty
    | _ => false

/-- The instruction answers a next state in which `x[a]` holds the value `v`, `pc` is at the default
successor, and nothing else is changed: no other register, no memory, no latch, no stream. -/
def SetsRegister (i : Instr) (s : State) (a : RegIx) (v : Nat) : Prop :=
  ∃ t, exec i s = .next t ∧ t.val a = v ∧ t.pc = s.npc ∧
    RegsKeptBut s t [a] ∧ DataKept s t ∧ MachineKept s t

/-- The instruction answers a next state in which the data cell `addr` holds `v`, `pc` is at the default
successor, and nothing else is changed. -/
def StoresCell (i : Instr) (s : State) (addr v : Byte) : Prop :=
  ∃ t, exec i s = .next t ∧ t.readMem addr = v ∧ t.pc = s.npc ∧
    DataKeptBut s t addr ∧ RegsKeptBut s t [] ∧ MachineKept s t

/-- The states agree in everything the engine computes with: registers, `pc`, memories, the halt latch,
and the answers to come. They may differ in the streams written and in the exit status. -/
def SameEngine (s t : State) : Prop :=
  s.regs = t.regs ∧ s.pc = t.pc ∧ s.mem = t.mem ∧ s.imem = t.imem ∧ s.halted = t.halted ∧
    s.intAnswers = t.intAnswers ∧ s.charAnswers = t.charAnswers

/-- The states agree in everything but the answers to come. -/
def SameButAnswers (s t : State) : Prop :=
  { s with intAnswers := [], charAnswers := [] } = { t with intAnswers := [], charAnswers := [] }

/-- Two outcomes are of one kind, with related states or the same fault or refusal. -/
def OutcomesRelated (R : State → State → Prop) : Result → Result → Prop
  | .next s, .next t => R s t
  | .fault a, .fault b => a = b
  | .refused a, .refused b => a = b
  | _, _ => False

/-- What the outside sees of a finished run (R133, R179): output stream, error stream, exit status;
nothing while the engine has not halted. -/
def State.observation (s : State) : Option (List Byte × List Dump × Byte) :=
  if s.halted then some (s.output, s.dumps, s.exitStatus) else none

/-- The state from which a loaded run starts, given the answers the environment will make. -/
def State.withAnswers (s : State) (ints : List IntAnswer) (chars : List CharAnswer) : State :=
  { s with intAnswers := ints, charAnswers := chars }

/-- A run of `n` steps meets no fault (R147: a claim about a program shows the fault is not reached). -/
def RunsSafely (n : Nat) (s : State) : Prop :=
  ∃ t, Host.Core.run Sys2Proof.core n s = .next t

end Sys2Proof.Machine
end

