-- ==== Sys2Proof/Certificates/Slice0/Obligations.lean ====
section
/-! DEFINITION. The statements for the provers. Each docstring says which rule of the spec a statement
formalises, or, for a derived one, what it rests on; where a clause is a decision of the spec's own
(92_eei_decisions.md) or a choice of this model (notes/assumptions), the title says so. -/

open Sys2Proof Sys2Proof.Machine

/-- scale(x) is the one value in [0, 255] congruent to x modulo 256. Rule R5. -/
def Obligations.ScaleIsTheResidueModulo256 : Prop :=
  ∀ x : Int, 0 ≤ ((scale x).toNat : Int) ∧ ((scale x).toNat : Int) ≤ 255 ∧
    (256 : Int) ∣ x - ((scale x).toNat : Int) ∧
    (∀ y : Int, 0 ≤ y → y ≤ 255 → (256 : Int) ∣ x - y → y = ((scale x).toNat : Int)) ∧
    ((scale x).toNat : Int) = x - 256 * (x / 256) ∧
    scale ((scale x).toNat : Int) = scale x

/-- Sample words of the spec decode to the instructions they stand for. Derived from
95_test_vectors.md section 2.5; 30_encoding.md section 2. -/
def Obligations.SampleWordsDecode : Prop :=
  decode 0x0000 = .halt 0 ∧ decode 0x0011 = .push 0 1 ∧ decode 0x0012 = .div 0 1 2 ∧
    decode 0x1010 = .pop 0 1 ∧ decode 0x1000 = .ret 0 0 ∧ decode 0x1012 = .recallBump 0 1 2 ∧
    decode 0x2101 = .clt 1 0 1 ∧ decode 0x3FFF = .shr 15 15 ∧ decode 0x4010 = .add 0 1 0 ∧
    decode 0x50FF = .stx 0 15 15 ∧ decode 0x6012 = .mul 0 1 2 ∧ decode 0x7C96 = .xor 12 9 6 ∧
    decode 0x8A0D = .jz 10 13 ∧ decode 0xE0FF = .ldc 0 255 ∧ decode 0xF101 = .sys1 1 ∧
    decode 0xF0A5 = .sysN 0 165

/-- Every word selects exactly one operation, by its opcode and the order of its index fields. Rule
R54. -/
def Obligations.IndicesSelectTheOperation : Prop :=
  (∀ w : Word, ∃ op < 16, ∃ a b c : RegIx, ∃ imm : Byte,
      w = wordABC op a b c ∧ w = wordAI op a imm ∧ imm.toNat = b.val * 16 + c.val) ∧
    ∀ (a b c : RegIx) (imm : Byte),
      (b ≠ c → decode (wordABC 0 a b c) = .div a b c) ∧
      (b = c → a ≠ b → decode (wordABC 0 a b c) = .push a b) ∧
      (a = b → b = c → decode (wordABC 0 a b c) = .halt a) ∧
      (a ≠ b → a ≠ c → decode (wordABC 1 a b c) = .recallBump a b c) ∧
      (a ≠ b → a = c → decode (wordABC 1 a b c) = .pop a b) ∧
      (a = b → decode (wordABC 1 a b c) = .ret a c) ∧
      (b ≠ c → decode (wordABC 2 a b c) = .clt a b c) ∧
      (b = c → decode (wordABC 2 a b c) = .shl a b) ∧
      (b ≠ c → decode (wordABC 3 a b c) = .sub a b c) ∧
      (b = c → decode (wordABC 3 a b c) = .shr a b) ∧
      (b ≤ c → decode (wordABC 4 a b c) = .ldx a b c) ∧
      (c < b → decode (wordABC 4 a b c) = .add a b c) ∧
      (b ≤ c → decode (wordABC 5 a b c) = .stx a b c) ∧
      (c < b → decode (wordABC 5 a b c) = .or a b c) ∧
      (b ≤ c → decode (wordABC 6 a b c) = .mul a b c) ∧
      (c < b → decode (wordABC 6 a b c) = .and a b c) ∧
      (b ≤ c → decode (wordABC 7 a b c) = .callx a b c) ∧
      (c < b → decode (wordABC 7 a b c) = .xor a b c) ∧
      decode (wordAI 8 a imm) = .jz a imm ∧ decode (wordAI 9 a imm) = .jnz a imm ∧
      decode (wordAI 10 a imm) = .calls a imm ∧ decode (wordAI 11 a imm) = .call a imm ∧
      decode (wordAI 12 a imm) = .ldr a imm ∧ decode (wordAI 13 a imm) = .str a imm ∧
      decode (wordAI 14 a imm) = .ldc a imm ∧
      decode (wordAI 15 a 0) = .sys0 a ∧ decode (wordAI 15 a 1) = .sys1 a ∧
      decode (wordAI 15 a 2) = .sys2 a ∧ decode (wordAI 15 a 3) = .sys3 a ∧
      decode (wordAI 15 a 4) = .sys4 a ∧ decode (wordAI 15 a 5) = .sys5 a ∧
      (6 ≤ imm.toNat → decode (wordAI 15 a imm) = .sysN a imm)

/-- Decoding the word of a well-formed instruction gives the instruction back. Derived from
30_encoding.md sections 1 and 2; 30_encoding.md section 4. -/
def Obligations.DecodingAnEncodingGivesTheInstruction : Prop :=
  ∀ i : Instr, i.wf = true → decode (encode i) = i

/-- Every word decodes to a well-formed instruction whose word it is. Derived from 30_encoding.md
section 2; 30_encoding.md section 3. -/
def Obligations.EncodingADecodedWordGivesTheWord : Prop :=
  ∀ w : Word, (decode w).wf = true ∧ encode (decode w) = w

/-- A step runs the instruction decoded from the word at pc. Derived from 10_state.md section 3. -/
def Obligations.StepRunsTheDecodedInstruction : Prop :=
  ∀ (s : State) (i : Instr), s.halted = false → decode (s.readImem s.pc) = i → step s = exec i s

/-- A halted engine takes no step (the model answers the same state, log entry 10). Derived from
10_state.md section 5. -/
def Obligations.HaltedEngineChangesNothing : Prop :=
  ∀ s : State, s.halted = true → step s = .next s

/-- A word placed at pc is what the next step runs (placing a word, which clears halted: the model's
choice, log entry 11). Derived from 10_state.md section 3. -/
def Obligations.PlacedWordIsTheNextInstruction : Prop :=
  ∀ (s : State) (nbits w : Nat), nbits ≤ 16 → w < 2 ^ nbits →
    ∃ i, decodeTableWord nbits w = some i ∧
      step (s.withFetchWord nbits w) = exec i (s.withFetchWord nbits w) ∧
      RegsKeptBut s (s.withFetchWord nbits w) [] ∧ DataKept s (s.withFetchWord nbits w) ∧
      (s.withFetchWord nbits w).pc = s.pc ∧
      ∀ a : Byte, a ≠ s.pc → (s.withFetchWord nbits w).readImem a = s.readImem a

/-- A step that is no control transfer leaves pc one further, modulo 256. Derived from 10_state.md
section 3; 42_control_transfer.md section 1. -/
def Obligations.PcIsTheSuccessorUnlessTransferred : Prop :=
  ∀ s t : State, s.halted = false → s.waits = false → step s = .next t →
    (decode s.fetch).transfers = false → t.pc.toNat = (s.pc.toNat + 1) % 256

/-- A step stops exactly on DIV with a == c, a non-zero divisor and a smaller dividend (decision
D19), and is never refused. Derived from 60_exceptions.md section 6; 40_arithmetic_logic.md section
2; 30_encoding.md section 3. -/
def Obligations.StepsStopOnlyOnDivAliasZero : Prop :=
  ∀ s : State, (∀ r, step s ≠ .refused r) ∧ (∀ f, step s = .fault f → f = .divAliasZero) ∧
    ((∃ f, step s = .fault f) ↔
      s.halted = false ∧ ∃ a b c, decode s.fetch = .div a b c ∧ a = c ∧ s.val c ≠ 0 ∧
        s.val b < s.val c)

/-- The engine halts exactly by executing HALT, which delivers x[a] as the exit status (decision
D6). Derived from 70_reset_and_hazards.md section 6; 10_state.md section 5. -/
def Obligations.HaltSetsTheLatchAndNothingElseDoes : Prop :=
  ∀ s : State, s.halted = false →
    (∀ a, decode s.fetch = .halt a →
      ∃ t, step s = .next t ∧ t.halted = true ∧ t.exitStatus = s.reg a ∧ t.pc = s.npc) ∧
    ∀ t, step s = .next t → (∀ a, decode s.fetch ≠ .halt a) →
      t.halted = false ∧ t.exitStatus = s.exitStatus

/-- No instruction writes instruction memory, stores go to data memory only, and nothing but fetch
and the dump reads it. Rule R41. -/
def Obligations.InstructionMemoryIsOnlyFetched : Prop :=
  (∀ s t : State, step s = .next t → InstructionsKept s t) ∧
    (∀ s t : State, step s = .next t → (decode s.fetch).storesData = false → DataKept s t) ∧
    ∀ (i : Instr) (s : State) (m : Memory 16), (∀ a, i ≠ .sys0 a) →
      OutcomesRelated (fun t t' => t' = { t with imem := m }) (exec i s)
        (exec i { s with imem := m })

/-- The output stream only grows, by system calls 2, 4 and 5, and the error stream only by system
call 0. Derived from 43_system.md section 4. -/
def Obligations.OutputComesOnlyFromSystemCalls : Prop :=
  ∀ s t : State, step s = .next t →
    (∃ codes, t.output = s.output ++ codes ∧
      (codes ≠ [] → ∃ a, decode s.fetch = .sys2 a ∨ decode s.fetch = .sys4 a ∨
        decode s.fetch = .sys5 a)) ∧
    ∃ dumps, t.dumps = s.dumps ++ dumps ∧ (dumps ≠ [] → ∃ a, decode s.fetch = .sys0 a)

/-- What was written to the streams, and the exit status, influence no step. Derived from
43_system.md section 4; 10_state.md section 5; 10_state.md section 7. -/
def Obligations.StreamsAndExitStatusAreNotReadable : Prop :=
  ∀ s s' : State, SameEngine s s' →
    OutcomesRelated SameEngine (step s) (step s') ∧
    ∀ t t', step s = .next t → step s' = .next t' →
      ∃ codes dumps, t.output = s.output ++ codes ∧ t'.output = s'.output ++ codes ∧
        t.dumps = s.dumps ++ dumps ∧ t'.dumps = s'.dumps ++ dumps

/-- The environment's answers are inputs of system calls 1 and 3 only. Derived from 43_system.md
section 2; 10_state.md section 6. -/
def Obligations.OnlyReadsDependOnAnswers : Prop :=
  (∀ s s' : State, SameButAnswers s s' → (∀ a, decode s.fetch ≠ .sys1 a) →
      (∀ a, decode s.fetch ≠ .sys3 a) →
      OutcomesRelated (fun t t' => SameButAnswers t t' ∧ AnswersKept s t ∧ AnswersKept s' t')
        (step s) (step s')) ∧
    (∀ (s : State) (a : RegIx) (q : List CharAnswer),
      OutcomesRelated (fun t t' => t' = { t with charAnswers := q }) (exec (.sys1 a) s)
        (exec (.sys1 a) { s with charAnswers := q })) ∧
    ∀ (s : State) (a : RegIx) (q : List IntAnswer),
      OutcomesRelated (fun t t' => t' = { t with intAnswers := q }) (exec (.sys3 a) s)
        (exec (.sys3 a) { s with intAnswers := q })

/-- Reset leaves registers, memories and pc zero and the engine not halted (decision D13). Derived
from 70_reset_and_hazards.md section 1; 10_state.md section 8. -/
def Obligations.ResetClearsTheEngineState : Prop :=
  (∀ r : RegIx, State.reset.reg r = 0) ∧ (∀ a : Byte, State.reset.readMem a = 0) ∧
    (∀ a : Byte, State.reset.readImem a = 0) ∧ State.reset.pc = 0 ∧ State.reset.halted = false

/-- The reset state has memories in canonical form. Derived from 10_state.md section 9. -/
def Obligations.ResetHasCanonicalForm : Prop :=
  State.reset.wf = true

/-- Every step keeps both memories, and those of every dump, in canonical form. Derived from
10_state.md section 9; 20_memory.md section 3. -/
def Obligations.StepKeepsCanonicalForm : Prop :=
  ∀ s t : State, s.wf = true → step s = .next t → t.wf = true

/-- A run from any loaded image keeps the canonical form and the loaded program. Derived from
20_memory.md section 5; 10_state.md section 9; 70_reset_and_hazards.md section 1. -/
def Obligations.RunsFromAnImageKeepFormAndProgram : Prop :=
  ∀ (stream : List Char) (s : State) (rest : List Char) (ints : List IntAnswer)
    (chars : List CharAnswer) (n : Nat) (t : State), load stream = .loaded s rest →
    Host.Core.run Sys2Proof.core n (s.withAnswers ints chars) = .next t →
    t.wf = true ∧ t.imem = s.imem

/-- A program with no DIV whose divisor is its destination never stops with a fault (the one fault:
decision D19). Derived from 60_exceptions.md section 6; 93_implementation_defined.md section 1;
20_memory.md section 5. -/
def Obligations.RunsWithoutAliasedDivisionsMeetNoFault : Prop :=
  ∀ (s : State) (n : Nat), (∀ (cell : Byte) (a b : RegIx), decode (s.readImem cell) ≠ .div a b a) →
    RunsSafely n s

/-- A run that has halted delivers its exit status and its streams, and no further step changes
them. Derived from 43_system.md section 4; 10_state.md section 5; 70_reset_and_hazards.md section 6.
-/
def Obligations.HaltedRunKeepsItsObservation : Prop :=
  ∀ (s t : State) (n m : Nat), Host.Core.run Sys2Proof.core n s = .next t → t.halted = true →
    Host.Core.run Sys2Proof.core (n + m) s = .next t ∧
      t.observation = some (t.output, t.dumps, t.exitStatus)

/-- ADD and SUB write the sum and the difference of x[b] and x[c] modulo 256 (operand roles:
decision D5). Derived from 40_arithmetic_logic.md section 1; 40_arithmetic_logic.md section 4;
40_arithmetic_logic.md section 5. -/
def Obligations.AddAndSubWrap : Prop :=
  ∀ (s : State) (a b c : RegIx),
    (c < b → decode (wordABC 4 a b c) = .add a b c) ∧
    (b ≠ c → decode (wordABC 3 a b c) = .sub a b c) ∧
    SetsRegister (.add a b c) s a ((s.val b + s.val c) % 256) ∧
    SetsRegister (.sub a b c) s a
      (if s.val c ≤ s.val b then s.val b - s.val c else 256 + s.val b - s.val c)

/-- SHL doubles x[b] modulo 256 and SHR halves it. Rules R73, R75. -/
def Obligations.ShiftsByOne : Prop :=
  ∀ (s : State) (a b : RegIx),
    decode (wordABC 2 a b b) = .shl a b ∧ decode (wordABC 3 a b b) = .shr a b ∧
    SetsRegister (.shl a b) s a (2 * s.val b % 256) ∧
    SetsRegister (.shr a b) s a (s.val b / 2)

/-- OR, AND and XOR combine x[b] and x[c] bit by bit (operand roles: decision D5). Derived from
40_arithmetic_logic.md section 1; 40_arithmetic_logic.md sections 6 to 8. -/
def Obligations.BitwiseOperations : Prop :=
  ∀ (s : State) (a b c : RegIx),
    (c < b → decode (wordABC 5 a b c) = .or a b c ∧ decode (wordABC 6 a b c) = .and a b c ∧
      decode (wordABC 7 a b c) = .xor a b c) ∧
    (∃ v : Byte, SetsRegister (.or a b c) s a v.toNat ∧
      ∀ k, v.getLsbD k = ((s.reg b).getLsbD k || (s.reg c).getLsbD k)) ∧
    (∃ v : Byte, SetsRegister (.and a b c) s a v.toNat ∧
      ∀ k, v.getLsbD k = ((s.reg b).getLsbD k && (s.reg c).getLsbD k)) ∧
    ∃ v : Byte, SetsRegister (.xor a b c) s a v.toNat ∧
      ∀ k, v.getLsbD k = ((s.reg b).getLsbD k != (s.reg c).getLsbD k)

/-- CLT writes 1 if x[b] < x[c] as unsigned values, else 0. Rule R72. -/
def Obligations.CompareLessThan : Prop :=
  ∀ (s : State) (a b c : RegIx), (b ≠ c → decode (wordABC 2 a b c) = .clt a b c) ∧
    (s.val b < s.val c → SetsRegister (.clt a b c) s a 1) ∧
    (s.val c ≤ s.val b → SetsRegister (.clt a b c) s a 0)

/-- LDC writes its immediate. Rule R80. -/
def Obligations.LoadConstant : Prop :=
  ∀ (s : State) (a : RegIx) (imm : Byte), decode (wordAI 14 a imm) = .ldc a imm ∧
    SetsRegister (.ldc a imm) s a imm.toNat

/-- DIV: no-op on a zero divisor, quotient and remainder, and the aliased forms (decisions D1 and
D19). Derived from 40_arithmetic_logic.md section 2; 70_reset_and_hazards.md section 4;
60_exceptions.md section 6. -/
def Obligations.DivideWritesQuotientAndRemainder : Prop :=
  ∀ (s : State) (a b c : RegIx), b ≠ c →
    decode (wordABC 0 a b c) = .div a b c ∧
    (s.val c = 0 → ∃ t, exec (.div a b c) s = .next t ∧ t.pc = s.npc ∧ RegsKeptBut s t [] ∧
      DataKept s t ∧ MachineKept s t) ∧
    (s.val c ≠ 0 → (a = c → s.val c ≤ s.val b) →
      ∃ t, exec (.div a b c) s = .next t ∧ t.val a = s.val b / s.val c ∧
        (a ≠ b → a ≠ c → t.val (a + 1) = s.val b % s.val c) ∧
        (a = b → t.val (a + 1) = s.val b / s.val c % s.val c) ∧
        (a = c → t.val (a + 1) = s.val b % (s.val b / s.val c)) ∧
        t.pc = s.npc ∧ RegsKeptBut s t [a, a + 1] ∧ DataKept s t ∧ MachineKept s t) ∧
    (s.val c ≠ 0 → a = c → s.val b < s.val c → exec (.div a b c) s = .fault .divAliasZero)

/-- MUL: high byte to x[a1], low byte to x[a], and the aliased forms (decision D1). Derived from
40_arithmetic_logic.md section 7; 70_reset_and_hazards.md section 4. -/
def Obligations.MultiplyWritesTheProductPair : Prop :=
  ∀ (s : State) (a b c : RegIx), (b ≤ c → decode (wordABC 6 a b c) = .mul a b c) ∧
    ∃ t, exec (.mul a b c) s = .next t ∧ t.val (a + 1) = s.val b * s.val c / 256 ∧
      (a + 1 ≠ b → a + 1 ≠ c → t.val a = s.val b * s.val c % 256) ∧
      (a + 1 = b → a + 1 ≠ c → t.val a = s.val b * s.val c / 256 * s.val c % 256) ∧
      (a + 1 = c → a + 1 ≠ b → t.val a = s.val b * (s.val b * s.val c / 256) % 256) ∧
      (a + 1 = b → a + 1 = c →
        t.val a = s.val b * s.val c / 256 * (s.val b * s.val c / 256) % 256) ∧
      t.pc = s.npc ∧ RegsKeptBut s t [a, a + 1] ∧ DataKept s t ∧ MachineKept s t

/-- PUSH decrements the stack pointer, then stores at it. Rule R90. -/
def Obligations.PushStoresBelowTheStackPointer : Prop :=
  ∀ (s : State) (a b : RegIx), a ≠ b → decode (wordABC 0 a b b) = .push a b ∧
    ∃ t, exec (.push a b) s = .next t ∧ t.val a = (s.val a + 255) % 256 ∧ t.pc = s.npc ∧
      RegsKeptBut s t [a] ∧ MachineKept s t ∧
      ∀ addr, addr = (s.advance.preDecrement a).reg a →
        addr.toNat = (s.val a + 255) % 256 ∧ t.readMem addr = s.reg b ∧ DataKeptBut s t addr

/-- POP loads the cell at the stack pointer, then increments it, and so undoes PUSH. Rule R91. -/
def Obligations.PopLoadsAtTheStackPointer : Prop :=
  (∀ (s : State) (a b : RegIx), a ≠ b → decode (wordABC 1 a b a) = .pop a b ∧
      ∃ t, exec (.pop a b) s = .next t ∧ t.reg b = s.readMem (s.reg a) ∧
        t.val a = (s.val a + 1) % 256 ∧ t.pc = s.npc ∧ RegsKeptBut s t [a, b] ∧ DataKept s t ∧
        MachineKept s t) ∧
    ∀ (s : State) (a b d : RegIx), a ≠ b → a ≠ d →
      ∃ t u, exec (.push a b) s = .next t ∧ exec (.pop a d) t = .next u ∧
        u.reg a = s.reg a ∧ u.reg d = s.reg b ∧ u.pc.toNat = (s.pc.toNat + 2) % 256 ∧
        RegsKeptBut s u [d] ∧ DataKeptBut s u (t.reg a)

/-- LDX loads the data cell at (x[b] + x[c]) mod 256 (the wrap: decision D4). Derived from
20_memory.md section 3; 41_load_store_stack.md section 3. -/
def Obligations.IndexedLoad : Prop :=
  ∀ (s : State) (a b c : RegIx) (addr : Byte), (b ≤ c → decode (wordABC 4 a b c) = .ldx a b c) ∧
    (addr.toNat = (s.val b + s.val c) % 256 →
      SetsRegister (.ldx a b c) s a (s.readMem addr).toNat)

/-- LDR loads the data cell at its immediate. Rule R94. -/
def Obligations.AbsoluteLoad : Prop :=
  ∀ (s : State) (a : RegIx) (imm : Byte), decode (wordAI 12 a imm) = .ldr a imm ∧
    SetsRegister (.ldr a imm) s a (s.readMem imm).toNat

/-- STX stores x[a] at (x[b] + x[c]) mod 256, and STR at its immediate. Rules R93, R95. -/
def Obligations.StoresWriteOneCell : Prop :=
  (∀ (s : State) (a b c : RegIx), (b ≤ c → decode (wordABC 5 a b c) = .stx a b c) ∧
      ∀ addr, addr = indexedAddr (s.reg b) (s.reg c) →
        addr.toNat = (s.val b + s.val c) % 256 ∧ StoresCell (.stx a b c) s addr (s.reg a)) ∧
    ∀ (s : State) (a : RegIx) (imm : Byte), decode (wordAI 13 a imm) = .str a imm ∧
      StoresCell (.str a imm) s imm (s.reg a)

/-- RECALL swaps pc with the cell at the stack pointer, raises the pointer by x[c] + 1 and links in
x[b]. Rule R100. -/
def Obligations.RecallSwapsPcWithTheStackCell : Prop :=
  ∀ (s : State) (a b c : RegIx), a ≠ b → a ≠ c →
    decode (wordABC 1 a b c) = .recallBump a b c ∧
    ∃ t, exec (.recallBump a b c) s = .next t ∧ t.pc = s.readMem (s.reg a) ∧
      t.readMem (s.reg a) = s.npc ∧ DataKeptBut s t (s.reg a) ∧
      t.val a = (s.val a + s.val c + 1) % 256 ∧ t.reg b = s.npc ∧ RegsKeptBut s t [a, b] ∧
      MachineKept s t

/-- RET writes npc to x[a] and jumps to x[c]; with c == a it does not jump (decision D1). Derived
from 42_control_transfer.md section 2; 70_reset_and_hazards.md section 4. -/
def Obligations.ReturnLinksAndJumps : Prop :=
  ∀ (s : State) (a c : RegIx), decode (wordABC 1 a a c) = .ret a c ∧
    ∃ t, exec (.ret a c) s = .next t ∧ t.reg a = s.npc ∧ (c ≠ a → t.pc = s.reg c) ∧
      (c = a → t.pc = s.npc) ∧ RegsKeptBut s t [a] ∧ DataKept s t ∧ MachineKept s t

/-- CALLX links in x[a] and jumps to the data cell at (npc + x[b]) mod 256 (decisions D22 and D4).
Derived from 42_control_transfer.md section 3; 20_memory.md section 3. -/
def Obligations.IndexedCallTakesItsTargetFromData : Prop :=
  ∀ (s : State) (a b c : RegIx), (b ≤ c → decode (wordABC 7 a b c) = .callx a b c) ∧
    ∃ t, exec (.callx a b c) s = .next t ∧ t.reg a = s.npc ∧
      (∀ addr : Byte, a ≠ b → addr.toNat = (s.npc.toNat + s.val b) % 256 →
        t.pc = s.readMem addr) ∧
      (∀ addr : Byte, a = b → addr.toNat = 2 * s.npc.toNat % 256 → t.pc = s.readMem addr) ∧
      RegsKeptBut s t [a] ∧ DataKept s t ∧ MachineKept s t

/-- JZ jumps to its immediate exactly if x[a] is zero, JNZ exactly if it is not. Rules R103, R104.
-/
def Obligations.ConditionalJumps : Prop :=
  ∀ (s : State) (a : RegIx) (imm : Byte), decode (wordAI 8 a imm) = .jz a imm ∧
    decode (wordAI 9 a imm) = .jnz a imm ∧
    (∃ t, exec (.jz a imm) s = .next t ∧ (s.val a = 0 → t.pc = imm) ∧
      (s.val a ≠ 0 → t.pc = s.npc) ∧ RegsKeptBut s t [] ∧ DataKept s t ∧ MachineKept s t) ∧
    ∃ t, exec (.jnz a imm) s = .next t ∧ (s.val a ≠ 0 → t.pc = imm) ∧
      (s.val a = 0 → t.pc = s.npc) ∧ RegsKeptBut s t [] ∧ DataKept s t ∧ MachineKept s t

/-- CALLS writes npc to x[a] and jumps to its immediate. Rule R105. -/
def Obligations.SubroutineCallLinksInARegister : Prop :=
  ∀ (s : State) (a : RegIx) (imm : Byte), decode (wordAI 10 a imm) = .calls a imm ∧
    ∃ t, exec (.calls a imm) s = .next t ∧ t.val a = (s.pc.toNat + 1) % 256 ∧ t.pc = imm ∧
      RegsKeptBut s t [a] ∧ DataKept s t ∧ MachineKept s t

/-- CALL pushes npc through x[a] and jumps to its immediate. Rule R106. -/
def Obligations.StackCallPushesTheReturnAddress : Prop :=
  ∀ (s : State) (a : RegIx) (imm : Byte), decode (wordAI 11 a imm) = .call a imm ∧
    ∃ t, exec (.call a imm) s = .next t ∧ t.val a = (s.val a + 255) % 256 ∧ t.pc = imm ∧
      RegsKeptBut s t [a] ∧ MachineKept s t ∧
      ∀ addr, addr = (s.advance.preDecrement a).reg a →
        addr.toNat = (s.val a + 255) % 256 ∧ t.readMem addr = s.npc ∧ DataKeptBut s t addr

/-- CALL and then RECALL returns to the address after the CALL and drops x[c] further cells. Derived
from 42_control_transfer.md section 2; 42_control_transfer.md section 6. -/
def Obligations.CallThenRecallReturns : Prop :=
  ∀ (s : State) (a b c : RegIx) (imm : Byte), a ≠ b → a ≠ c →
    ∃ t u, exec (.call a imm) s = .next t ∧ exec (.recallBump a b c) t = .next u ∧
      u.pc = s.npc ∧ u.val a = (s.val a + s.val c) % 256 ∧ u.reg b = imm + 1 ∧
      u.readMem (t.reg a) = imm + 1 ∧ RegsKeptBut s u [a, b] ∧ DataKeptBut s u (t.reg a)

/-- CALLS ra and then RET rd, ra (d != a) returns to the address after the CALLS. Derived from
42_control_transfer.md sections 2 and 5; 42_control_transfer.md section 6. -/
def Obligations.SubroutineCallThenReturnReturns : Prop :=
  ∀ (s : State) (a d : RegIx) (imm : Byte), d ≠ a →
    ∃ t u, exec (.calls a imm) s = .next t ∧ exec (.ret d a) t = .next u ∧ u.pc = s.npc ∧
      u.reg a = s.npc ∧ u.reg d = imm + 1 ∧ RegsKeptBut s u [a, d] ∧ DataKept s u

/-- HALT sets the latch and delivers x[a] as the exit status (decision D6). Derived from
43_system.md section 1; 10_state.md section 5. -/
def Obligations.HaltDeliversTheExitStatus : Prop :=
  ∀ (s : State) (a : RegIx), decode (wordABC 0 a a a) = .halt a ∧
    ∃ t, exec (.halt a) s = .next t ∧ t.halted = true ∧ t.exitStatus = s.reg a ∧
      t.pc = s.npc ∧ RegsKeptBut s t [] ∧ DataKept s t ∧ InstructionsKept s t ∧
      AnswersKept s t ∧ StreamsKept s t

/-- SYS 0 hands a copy of the Engine State, with pc = npc, to the error stream. Rule R123. -/
def Obligations.CoreDumpHandsOverTheState : Prop :=
  ∀ (s : State) (a : RegIx), decode (wordAI 15 a 0) = .sys0 a ∧
    ∃ t, exec (.sys0 a) s = .next t ∧
      t.dumps = s.dumps ++ [⟨s.regs, s.mem, s.imem, s.npc⟩] ∧ t.output = s.output ∧
      t.pc = s.npc ∧ RegsKeptBut s t [] ∧ DataKept s t ∧ InstructionsKept s t ∧ HaltKept s t ∧
      AnswersKept s t

/-- SYS 1 writes success to x[a1] and the scaled integer to x[a], or failure to x[a1] alone. Rule
R124. -/
def Obligations.ReadIntegerReportsInTheNextRegister : Prop :=
  ∀ (s : State) (a : RegIx) (rest : List IntAnswer), decode (wordAI 15 a 1) = .sys1 a ∧
    (∀ v : Int, s.intAnswers = .ok v :: rest →
      ∃ t, exec (.sys1 a) s = .next t ∧ t.val (a + 1) = 1 ∧ (t.val a : Int) = v % 256 ∧
        t.pc = s.npc ∧ t.intAnswers = rest ∧ t.charAnswers = s.charAnswers ∧
        RegsKeptBut s t [a, a + 1] ∧ DataKept s t ∧ InstructionsKept s t ∧ HaltKept s t ∧
        StreamsKept s t) ∧
    (s.intAnswers = .fail :: rest →
      ∃ t, exec (.sys1 a) s = .next t ∧ t.val (a + 1) = 0 ∧
        t.pc = s.npc ∧ t.intAnswers = rest ∧ t.charAnswers = s.charAnswers ∧
        RegsKeptBut s t [a + 1] ∧ DataKept s t ∧ InstructionsKept s t ∧ HaltKept s t ∧
        StreamsKept s t)

/-- SYS 3 writes success to x[a1] and the scaled code to x[a], or end of input to x[a1] alone
(decision D21). Derived from 43_system.md section 3; 60_exceptions.md section 8. -/
def Obligations.ReadCharacterReportsInTheNextRegister : Prop :=
  ∀ (s : State) (a : RegIx) (rest : List CharAnswer), decode (wordAI 15 a 3) = .sys3 a ∧
    (∀ k : Nat, s.charAnswers = .ok k :: rest →
      ∃ t, exec (.sys3 a) s = .next t ∧ t.val (a + 1) = 1 ∧ t.val a = k % 256 ∧
        t.pc = s.npc ∧ t.charAnswers = rest ∧ t.intAnswers = s.intAnswers ∧
        RegsKeptBut s t [a, a + 1] ∧ DataKept s t ∧ InstructionsKept s t ∧ HaltKept s t ∧
        StreamsKept s t) ∧
    (s.charAnswers = .eof :: rest →
      ∃ t, exec (.sys3 a) s = .next t ∧ t.val (a + 1) = 0 ∧
        t.pc = s.npc ∧ t.charAnswers = rest ∧ t.intAnswers = s.intAnswers ∧
        RegsKeptBut s t [a + 1] ∧ DataKept s t ∧ InstructionsKept s t ∧ HaltKept s t ∧
        StreamsKept s t)

/-- A read whose answer has not come changes nothing (a step that answers the same state is the
model's choice, log entry 8). Derived from 43_system.md section 4. -/
def Obligations.ReadsWaitForTheirAnswer : Prop :=
  ∀ (s : State) (a : RegIx), (s.intAnswers = [] → exec (.sys1 a) s = .next s) ∧
    (s.charAnswers = [] → exec (.sys3 a) s = .next s)

/-- SYS 2 appends the shortest decimal numeral of x[a] (decision D9; digit codes from general
knowledge, log entry 7). Derived from 43_system.md section 3. -/
def Obligations.WriteDecimalAppendsTheShortestNumeral : Prop :=
  ∀ (s : State) (a : RegIx), decode (wordAI 15 a 2) = .sys2 a ∧
    ∃ (t : State) (digits : List Nat), exec (.sys2 a) s = .next t ∧
      t.output = s.output ++ digits.map (fun d => BitVec.ofNat 8 (48 + d)) ∧
      (∀ d ∈ digits, d < 10) ∧ digits.foldl (fun n d => 10 * n + d) 0 = s.val a ∧
      digits ≠ [] ∧ (digits.head? = some 0 → digits = [0]) ∧ digits.length ≤ 3 ∧
      t.dumps = s.dumps ∧ t.pc = s.npc ∧ RegsKeptBut s t [] ∧ DataKept s t ∧
      InstructionsKept s t ∧ HaltKept s t ∧ AnswersKept s t

/-- SYS 4 appends the one character whose code is x[a]. Rule R127. -/
def Obligations.WriteCharacterAppendsOneCode : Prop :=
  ∀ (s : State) (a : RegIx), decode (wordAI 15 a 4) = .sys4 a ∧
    ∃ t, exec (.sys4 a) s = .next t ∧ t.output = s.output ++ [s.reg a] ∧ t.dumps = s.dumps ∧
      t.pc = s.npc ∧ RegsKeptBut s t [] ∧ DataKept s t ∧ InstructionsKept s t ∧ HaltKept s t ∧
      AnswersKept s t

/-- SYS 5 appends the cells from x[a] up to the first zero cell or the end of memory (decision D11).
Derived from 43_system.md section 3. -/
def Obligations.WriteStringStopsAtZeroOrTheEnd : Prop :=
  ∀ (s : State) (a : RegIx), decode (wordAI 15 a 5) = .sys5 a ∧
    ∃ (t : State) (n : Nat), exec (.sys5 a) s = .next t ∧ s.val a + n ≤ 256 ∧
      t.output = s.output ++ (List.range n).map (fun k => s.readMem (BitVec.ofNat 8 (s.val a + k))) ∧
      (∀ k < n, s.readMem (BitVec.ofNat 8 (s.val a + k)) ≠ 0) ∧
      (s.val a + n = 256 ∨ s.readMem (BitVec.ofNat 8 (s.val a + n)) = 0) ∧
      t.dumps = s.dumps ∧ t.pc = s.npc ∧ RegsKeptBut s t [] ∧ DataKept s t ∧
      InstructionsKept s t ∧ HaltKept s t ∧ AnswersKept s t

/-- SYS with a selector from 6 to 255 does nothing but advance pc. Rule R129. -/
def Obligations.OtherSelectorsDoNothing : Prop :=
  ∀ (s : State) (a : RegIx) (imm : Byte),
    (6 ≤ imm.toNat → decode (wordAI 15 a imm) = .sysN a imm) ∧
    ∃ t, exec (.sysN a imm) s = .next t ∧ t.pc = s.npc ∧ RegsKeptBut s t [] ∧ DataKept s t ∧
      MachineKept s t

/-- The digits of the load image: value and base of each character. Rule R163. -/
def Obligations.NumeralTable : Prop :=
  (∀ n < 10, digit (Char.ofNat ('0'.toNat + n)) = some ⟨n, 10⟩) ∧
    (∀ n < 16, digit (Char.ofNat ('A'.toNat + n)) = some ⟨n, 16⟩) ∧
    (∀ n < 8, digit (Char.ofNat ('Q'.toNat + n)) = some ⟨n, 8⟩) ∧
    digit 'Y' = some ⟨1, 2⟩ ∧ digit 'Z' = some ⟨0, 2⟩ ∧
    ∀ ch : Char, digit ch ≠ none → ('0' ≤ ch ∧ ch ≤ '9') ∨ ('A' ≤ ch ∧ ch ≤ 'Z')

/-- The value of a word: the first digit, then times each later digit's own base plus its value.
Rule R164. -/
def Obligations.WordValueShiftsByEachDigitsBase : Prop :=
  (∀ (ch : Char) (chars : List Char) (d : Digit) (ds : List Digit), digit ch = some d →
      chars.map digit = ds.map some →
      wordValue (ch :: chars) = some (ds.foldl (fun acc e => acc * e.base + e.value) d.value)) ∧
    ∀ chars : List Char, (∃ ch ∈ chars, digit ch = none) → wordValue chars = none

/-- How a section of the image is cut into words (a bare terminator yields no word: decision D17).
Derived from 70_reset_and_hazards.md section 2. -/
def Obligations.SectionsAreCutAtWhitespaceAndTerminators : Prop :=
  (∀ ch : Char, isWhitespace ch = true ↔ ch.toNat ∈ [32, 9, 10, 12, 11]) ∧
    (∀ rest, parseSection none ('%' :: rest) = .ok ([], rest)) ∧
    (∀ ch rest, isWhitespace ch = true → parseSection none (ch :: rest) = parseSection none rest) ∧
    (∀ run v rest, wordValue run = some v →
      parseSection none (run ++ '%' :: rest) = .ok ([v], rest)) ∧
    ∀ run v ch rest words rest', wordValue run = some v → isWhitespace ch = true →
      parseSection none rest = .ok (words, rest') →
      parseSection none (run ++ ch :: rest) = .ok (v :: words, rest')

/-- The load stores the words in order and sets pc to the length of the first instruction section.
Rule R166. -/
def Obligations.LoadPlacesTheWords : Prop :=
  ∀ (stream : List Char) (x : Sections) (rest rest' : List Char) (s : State),
    parseImage stream = .ok (x, rest) → load stream = .loaded s rest' →
    rest' = rest ∧ (∀ r : RegIx, s.val r = x.registers.getD r.val 0) ∧
      (∀ a : Byte, (s.readMem a).toNat = x.memory.getD a.toNat 0) ∧
      (∀ a : Byte, (s.readImem a).toNat =
        (x.firstInstructions ++ x.secondInstructions).getD a.toNat 0) ∧
      s.pc.toNat = x.firstInstructions.length ∧ s.halted = false

/-- The load accepts exactly the images whose sections and words fit (decisions D14 and D15).
Derived from 70_reset_and_hazards.md section 2; 60_exceptions.md section 6. -/
def Obligations.LoadRefusesWhatDoesNotFit : Prop :=
  ∀ (stream : List Char) (x : Sections) (rest : List Char), parseImage stream = .ok (x, rest) →
    ((∃ s, load stream = .loaded s rest) ↔
      x.registers.length ≤ 16 ∧ x.memory.length ≤ 256 ∧ x.firstInstructions.length ≤ 255 ∧
        x.firstInstructions.length + x.secondInstructions.length ≤ 256 ∧
        (∀ v ∈ x.registers ++ x.memory, v ≤ 255) ∧
        ∀ v ∈ x.firstInstructions ++ x.secondInstructions, v ≤ 65535) ∧
    ((¬ ∃ s, load stream = .loaded s rest) → ∃ why, load stream = .rejected (.imageRejected why))

/-- The load refuses an image with a foreign character, or that ends before the fourth terminator
(decision D16). Derived from 70_reset_and_hazards.md section 2; 60_exceptions.md section 6. -/
def Obligations.LoadRefusesMalformedImages : Prop :=
  (∀ stream : List Char, stream.count '%' < 4 →
      ∃ why, load stream = .rejected (.imageRejected why)) ∧
    ∀ (before : List Char) (ch : Char) (after : List Char), before.count '%' < 4 →
      digit ch = none → isWhitespace ch = false → ch ≠ '%' →
      ∃ why, load (before ++ ch :: after) = .rejected (.imageRejected why)

/-- Every state the load answers has memories in canonical form. Derived from
70_reset_and_hazards.md section 2; 10_state.md section 9. -/
def Obligations.LoadedStatesHaveCanonicalForm : Prop :=
  ∀ (stream : List Char) (s : State) (rest : List Char), load stream = .loaded s rest → s.wf = true

/-- Loading the text of a dump restores registers, memories and pc. Derived from 43_system.md
section 4; 70_reset_and_hazards.md section 2. -/
def Obligations.DumpReloadsToTheStateItWasTakenFrom : Prop :=
  ∀ (d : Dump) (least : MinIndex) (text : List Char), d.wf = true → d.renderedBy least text →
    ∃ s rest, load text = .loaded s rest ∧ s.snapshot = d ∧ s.halted = false ∧
      ∀ ch ∈ rest, ch = lineBreak

/-- Every dump has a text in the load image's format, and line breaks may follow it (their placing:
the model's choice, log entry 24). Derived from 43_system.md section 4. -/
def Obligations.EveryDumpHasARendering : Prop :=
  ∀ (d : Dump) (least : MinIndex), (∃ text, d.renderedBy least text) ∧
    ∀ text, d.renderedBy least text → d.renderedBy least (text ++ [lineBreak])

/-- A dump prints all 16 registers, zeros included, and as many words in its third section as pc
(decision D12; log entry 12). Derived from 43_system.md section 4. -/
def Obligations.DumpTextHasAllRegistersAndAsManyWordsAsPc : Prop :=
  ∀ (d : Dump) (least : MinIndex) (text : List Char) (x : Sections) (rest : List Char),
    d.renderedBy least text → parseImage text = .ok (x, rest) →
    x.registers.length = 16 ∧ (∀ r : RegIx, x.registers.getD r.val 0 = d.regs[r].toNat) ∧
      x.firstInstructions.length = d.pc.toNat ∧
      ∀ a < d.pc.toNat, x.firstInstructions.getD a 0 = (d.imem.read a).toNat
end

