-- ==== Sys2Proof/Laws/Encoding.lean ====
section
/-! SUPPORT. The fields of a word laid out as R51 says. -/

namespace Sys2Proof

theorem fieldOpcode_toNat (w : Word) : (fieldOpcode w).toNat = w.toNat / 4096 := by
  have := w.isLt
  simp only [fieldOpcode, BitVec.extractLsb'_toNat, Nat.shiftRight_eq_div_pow]; omega

theorem fieldA_val (w : Word) : (fieldA w).val = w.toNat / 256 % 16 := by
  simp [fieldA, Nat.shiftRight_eq_div_pow]

theorem fieldB_val (w : Word) : (fieldB w).val = w.toNat / 16 % 16 := by
  simp [fieldB, Nat.shiftRight_eq_div_pow]

theorem fieldC_val (w : Word) : (fieldC w).val = w.toNat % 16 := by
  simp [fieldC, Nat.shiftRight_eq_div_pow]

theorem fieldImm_toNat (w : Word) : (fieldImm w).toNat = w.toNat % 256 := by
  simp [fieldImm, BitVec.extractLsb'_toNat, Nat.shiftRight_eq_div_pow]

/-- `imm = b*16 + c` (R52). -/
theorem fieldImm_eq (w : Word) : (fieldImm w).toNat = (fieldB w).val * 16 + (fieldC w).val := by
  rw [fieldImm_toNat, fieldB_val, fieldC_val]; omega

theorem wordABC_toNat {op : Nat} (h : op < 16) (a b c : RegIx) :
    (wordABC op a b c).toNat = op * 4096 + a.val * 256 + b.val * 16 + c.val := by
  simp only [wordABC, BitVec.toNat_ofNat]; omega

theorem wordAI_toNat {op : Nat} (h : op < 16) (a : RegIx) (imm : Byte) :
    (wordAI op a imm).toNat = op * 4096 + a.val * 256 + imm.toNat := by
  have := imm.isLt
  simp only [wordAI, BitVec.toNat_ofNat]; omega

theorem fieldOpcode_wordABC {op : Nat} (h : op < 16) (a b c : RegIx) :
    (fieldOpcode (wordABC op a b c)).toNat = op := by
  rw [fieldOpcode_toNat, wordABC_toNat h]; omega

theorem fieldA_wordABC {op : Nat} (h : op < 16) (a b c : RegIx) : fieldA (wordABC op a b c) = a := by
  apply Fin.ext; rw [fieldA_val, wordABC_toNat h]; omega

theorem fieldB_wordABC {op : Nat} (h : op < 16) (a b c : RegIx) : fieldB (wordABC op a b c) = b := by
  apply Fin.ext; rw [fieldB_val, wordABC_toNat h]; omega

theorem fieldC_wordABC {op : Nat} (h : op < 16) (a b c : RegIx) : fieldC (wordABC op a b c) = c := by
  apply Fin.ext; rw [fieldC_val, wordABC_toNat h]; omega

theorem fieldOpcode_wordAI {op : Nat} (h : op < 16) (a : RegIx) (imm : Byte) :
    (fieldOpcode (wordAI op a imm)).toNat = op := by
  have := imm.isLt
  rw [fieldOpcode_toNat, wordAI_toNat h]; omega

theorem fieldA_wordAI {op : Nat} (h : op < 16) (a : RegIx) (imm : Byte) :
    fieldA (wordAI op a imm) = a := by
  have := imm.isLt
  apply Fin.ext; rw [fieldA_val, wordAI_toNat h]; omega

theorem fieldImm_wordAI {op : Nat} (h : op < 16) (a : RegIx) (imm : Byte) :
    fieldImm (wordAI op a imm) = imm := by
  have := imm.isLt
  apply BitVec.eq_of_toNat_eq; rw [fieldImm_toNat, wordAI_toNat h]; omega

end Sys2Proof
end

