-- ==== Sys2Proof/Laws/State.lean ====
section
/-! SUPPORT. One lemma for each field of the state under each operation, and for the reads
(`reg`, `val`, `readMem`, `readImem`, `fetch`, `npc`) under each, so that no proof unfolds a record
update. -/

namespace Sys2Proof.Machine

/-! ### `setReg` -/

@[simp] theorem State.setReg_pc (s : State) (i : RegIx) (v : Byte) : (s.setReg i v).pc = s.pc := rfl
@[simp] theorem State.setReg_mem (s : State) (i : RegIx) (v : Byte) : (s.setReg i v).mem = s.mem := rfl
@[simp] theorem State.setReg_imem (s : State) (i : RegIx) (v : Byte) : (s.setReg i v).imem = s.imem := rfl
@[simp] theorem State.setReg_halted (s : State) (i : RegIx) (v : Byte) : (s.setReg i v).halted = s.halted := rfl
@[simp] theorem State.setReg_exitStatus (s : State) (i : RegIx) (v : Byte) : (s.setReg i v).exitStatus = s.exitStatus := rfl
@[simp] theorem State.setReg_intAnswers (s : State) (i : RegIx) (v : Byte) : (s.setReg i v).intAnswers = s.intAnswers := rfl
@[simp] theorem State.setReg_charAnswers (s : State) (i : RegIx) (v : Byte) : (s.setReg i v).charAnswers = s.charAnswers := rfl
@[simp] theorem State.setReg_output (s : State) (i : RegIx) (v : Byte) : (s.setReg i v).output = s.output := rfl
@[simp] theorem State.setReg_dumps (s : State) (i : RegIx) (v : Byte) : (s.setReg i v).dumps = s.dumps := rfl
@[simp] theorem State.setReg_readMem (s : State) (i : RegIx) (v : Byte) (addr : Byte) : (s.setReg i v).readMem addr = s.readMem addr := rfl
@[simp] theorem State.setReg_readImem (s : State) (i : RegIx) (v : Byte) (addr : Byte) : (s.setReg i v).readImem addr = s.readImem addr := rfl
@[simp] theorem State.setReg_npc (s : State) (i : RegIx) (v : Byte) : (s.setReg i v).npc = s.npc := rfl

/-! ### `writeMem` -/

@[simp] theorem State.writeMem_regs (s : State) (a v : Byte) : (s.writeMem a v).regs = s.regs := rfl
@[simp] theorem State.writeMem_pc (s : State) (a v : Byte) : (s.writeMem a v).pc = s.pc := rfl
@[simp] theorem State.writeMem_mem (s : State) (a v : Byte) : (s.writeMem a v).mem = s.mem.write a.toNat v := rfl
@[simp] theorem State.writeMem_imem (s : State) (a v : Byte) : (s.writeMem a v).imem = s.imem := rfl
@[simp] theorem State.writeMem_halted (s : State) (a v : Byte) : (s.writeMem a v).halted = s.halted := rfl
@[simp] theorem State.writeMem_exitStatus (s : State) (a v : Byte) : (s.writeMem a v).exitStatus = s.exitStatus := rfl
@[simp] theorem State.writeMem_intAnswers (s : State) (a v : Byte) : (s.writeMem a v).intAnswers = s.intAnswers := rfl
@[simp] theorem State.writeMem_charAnswers (s : State) (a v : Byte) : (s.writeMem a v).charAnswers = s.charAnswers := rfl
@[simp] theorem State.writeMem_output (s : State) (a v : Byte) : (s.writeMem a v).output = s.output := rfl
@[simp] theorem State.writeMem_dumps (s : State) (a v : Byte) : (s.writeMem a v).dumps = s.dumps := rfl
@[simp] theorem State.writeMem_reg (s : State) (a v : Byte) (r : RegIx) : (s.writeMem a v).reg r = s.reg r := rfl
@[simp] theorem State.writeMem_val (s : State) (a v : Byte) (r : RegIx) : (s.writeMem a v).val r = s.val r := rfl
@[simp] theorem State.writeMem_readImem (s : State) (a v : Byte) (addr : Byte) : (s.writeMem a v).readImem addr = s.readImem addr := rfl
@[simp] theorem State.writeMem_npc (s : State) (a v : Byte) : (s.writeMem a v).npc = s.npc := rfl

/-! ### `setPc` -/

@[simp] theorem State.setPc_regs (s : State) (t : Byte) : (s.setPc t).regs = s.regs := rfl
@[simp] theorem State.setPc_pc (s : State) (t : Byte) : (s.setPc t).pc = t := rfl
@[simp] theorem State.setPc_mem (s : State) (t : Byte) : (s.setPc t).mem = s.mem := rfl
@[simp] theorem State.setPc_imem (s : State) (t : Byte) : (s.setPc t).imem = s.imem := rfl
@[simp] theorem State.setPc_halted (s : State) (t : Byte) : (s.setPc t).halted = s.halted := rfl
@[simp] theorem State.setPc_exitStatus (s : State) (t : Byte) : (s.setPc t).exitStatus = s.exitStatus := rfl
@[simp] theorem State.setPc_intAnswers (s : State) (t : Byte) : (s.setPc t).intAnswers = s.intAnswers := rfl
@[simp] theorem State.setPc_charAnswers (s : State) (t : Byte) : (s.setPc t).charAnswers = s.charAnswers := rfl
@[simp] theorem State.setPc_output (s : State) (t : Byte) : (s.setPc t).output = s.output := rfl
@[simp] theorem State.setPc_dumps (s : State) (t : Byte) : (s.setPc t).dumps = s.dumps := rfl
@[simp] theorem State.setPc_reg (s : State) (t : Byte) (r : RegIx) : (s.setPc t).reg r = s.reg r := rfl
@[simp] theorem State.setPc_val (s : State) (t : Byte) (r : RegIx) : (s.setPc t).val r = s.val r := rfl
@[simp] theorem State.setPc_readMem (s : State) (t : Byte) (addr : Byte) : (s.setPc t).readMem addr = s.readMem addr := rfl
@[simp] theorem State.setPc_readImem (s : State) (t : Byte) (addr : Byte) : (s.setPc t).readImem addr = s.readImem addr := rfl

/-! ### `advance` -/

@[simp] theorem State.advance_regs (s : State) : (s.advance).regs = s.regs := rfl
@[simp] theorem State.advance_pc (s : State) : (s.advance).pc = s.npc := rfl
@[simp] theorem State.advance_mem (s : State) : (s.advance).mem = s.mem := rfl
@[simp] theorem State.advance_imem (s : State) : (s.advance).imem = s.imem := rfl
@[simp] theorem State.advance_halted (s : State) : (s.advance).halted = s.halted := rfl
@[simp] theorem State.advance_exitStatus (s : State) : (s.advance).exitStatus = s.exitStatus := rfl
@[simp] theorem State.advance_intAnswers (s : State) : (s.advance).intAnswers = s.intAnswers := rfl
@[simp] theorem State.advance_charAnswers (s : State) : (s.advance).charAnswers = s.charAnswers := rfl
@[simp] theorem State.advance_output (s : State) : (s.advance).output = s.output := rfl
@[simp] theorem State.advance_dumps (s : State) : (s.advance).dumps = s.dumps := rfl
@[simp] theorem State.advance_reg (s : State) (r : RegIx) : (s.advance).reg r = s.reg r := rfl
@[simp] theorem State.advance_val (s : State) (r : RegIx) : (s.advance).val r = s.val r := rfl
@[simp] theorem State.advance_readMem (s : State) (addr : Byte) : (s.advance).readMem addr = s.readMem addr := rfl
@[simp] theorem State.advance_readImem (s : State) (addr : Byte) : (s.advance).readImem addr = s.readImem addr := rfl

/-! ### `halt` -/

@[simp] theorem State.halt_regs (s : State) (status : Byte) : (s.halt status).regs = s.regs := rfl
@[simp] theorem State.halt_pc (s : State) (status : Byte) : (s.halt status).pc = s.pc := rfl
@[simp] theorem State.halt_mem (s : State) (status : Byte) : (s.halt status).mem = s.mem := rfl
@[simp] theorem State.halt_imem (s : State) (status : Byte) : (s.halt status).imem = s.imem := rfl
@[simp] theorem State.halt_halted (s : State) (status : Byte) : (s.halt status).halted = true := rfl
@[simp] theorem State.halt_exitStatus (s : State) (status : Byte) : (s.halt status).exitStatus = status := rfl
@[simp] theorem State.halt_intAnswers (s : State) (status : Byte) : (s.halt status).intAnswers = s.intAnswers := rfl
@[simp] theorem State.halt_charAnswers (s : State) (status : Byte) : (s.halt status).charAnswers = s.charAnswers := rfl
@[simp] theorem State.halt_output (s : State) (status : Byte) : (s.halt status).output = s.output := rfl
@[simp] theorem State.halt_dumps (s : State) (status : Byte) : (s.halt status).dumps = s.dumps := rfl
@[simp] theorem State.halt_reg (s : State) (status : Byte) (r : RegIx) : (s.halt status).reg r = s.reg r := rfl
@[simp] theorem State.halt_val (s : State) (status : Byte) (r : RegIx) : (s.halt status).val r = s.val r := rfl
@[simp] theorem State.halt_readMem (s : State) (status : Byte) (addr : Byte) : (s.halt status).readMem addr = s.readMem addr := rfl
@[simp] theorem State.halt_readImem (s : State) (status : Byte) (addr : Byte) : (s.halt status).readImem addr = s.readImem addr := rfl
@[simp] theorem State.halt_npc (s : State) (status : Byte) : (s.halt status).npc = s.npc := rfl

/-! ### `placeInstruction` -/

@[simp] theorem State.placeInstruction_regs (s : State) (w : Word) : (s.placeInstruction w).regs = s.regs := rfl
@[simp] theorem State.placeInstruction_pc (s : State) (w : Word) : (s.placeInstruction w).pc = s.pc := rfl
@[simp] theorem State.placeInstruction_mem (s : State) (w : Word) : (s.placeInstruction w).mem = s.mem := rfl
@[simp] theorem State.placeInstruction_imem (s : State) (w : Word) : (s.placeInstruction w).imem = s.imem.write s.pc.toNat w := rfl
@[simp] theorem State.placeInstruction_halted (s : State) (w : Word) : (s.placeInstruction w).halted = false := rfl
@[simp] theorem State.placeInstruction_exitStatus (s : State) (w : Word) : (s.placeInstruction w).exitStatus = s.exitStatus := rfl
@[simp] theorem State.placeInstruction_intAnswers (s : State) (w : Word) : (s.placeInstruction w).intAnswers = s.intAnswers := rfl
@[simp] theorem State.placeInstruction_charAnswers (s : State) (w : Word) : (s.placeInstruction w).charAnswers = s.charAnswers := rfl
@[simp] theorem State.placeInstruction_output (s : State) (w : Word) : (s.placeInstruction w).output = s.output := rfl
@[simp] theorem State.placeInstruction_dumps (s : State) (w : Word) : (s.placeInstruction w).dumps = s.dumps := rfl
@[simp] theorem State.placeInstruction_reg (s : State) (w : Word) (r : RegIx) : (s.placeInstruction w).reg r = s.reg r := rfl
@[simp] theorem State.placeInstruction_val (s : State) (w : Word) (r : RegIx) : (s.placeInstruction w).val r = s.val r := rfl
@[simp] theorem State.placeInstruction_readMem (s : State) (w : Word) (addr : Byte) : (s.placeInstruction w).readMem addr = s.readMem addr := rfl
@[simp] theorem State.placeInstruction_npc (s : State) (w : Word) : (s.placeInstruction w).npc = s.npc := rfl

/-! ### `preDecrement` -/

@[simp] theorem State.preDecrement_pc (s : State) (a : RegIx) : (s.preDecrement a).pc = s.pc := rfl
@[simp] theorem State.preDecrement_mem (s : State) (a : RegIx) : (s.preDecrement a).mem = s.mem := rfl
@[simp] theorem State.preDecrement_imem (s : State) (a : RegIx) : (s.preDecrement a).imem = s.imem := rfl
@[simp] theorem State.preDecrement_halted (s : State) (a : RegIx) : (s.preDecrement a).halted = s.halted := rfl
@[simp] theorem State.preDecrement_exitStatus (s : State) (a : RegIx) : (s.preDecrement a).exitStatus = s.exitStatus := rfl
@[simp] theorem State.preDecrement_intAnswers (s : State) (a : RegIx) : (s.preDecrement a).intAnswers = s.intAnswers := rfl
@[simp] theorem State.preDecrement_charAnswers (s : State) (a : RegIx) : (s.preDecrement a).charAnswers = s.charAnswers := rfl
@[simp] theorem State.preDecrement_output (s : State) (a : RegIx) : (s.preDecrement a).output = s.output := rfl
@[simp] theorem State.preDecrement_dumps (s : State) (a : RegIx) : (s.preDecrement a).dumps = s.dumps := rfl
@[simp] theorem State.preDecrement_readMem (s : State) (a : RegIx) (addr : Byte) : (s.preDecrement a).readMem addr = s.readMem addr := rfl
@[simp] theorem State.preDecrement_readImem (s : State) (a : RegIx) (addr : Byte) : (s.preDecrement a).readImem addr = s.readImem addr := rfl
@[simp] theorem State.preDecrement_npc (s : State) (a : RegIx) : (s.preDecrement a).npc = s.npc := rfl

/-! ### `postIncrement` -/

@[simp] theorem State.postIncrement_pc (s : State) (a : RegIx) : (s.postIncrement a).pc = s.pc := rfl
@[simp] theorem State.postIncrement_mem (s : State) (a : RegIx) : (s.postIncrement a).mem = s.mem := rfl
@[simp] theorem State.postIncrement_imem (s : State) (a : RegIx) : (s.postIncrement a).imem = s.imem := rfl
@[simp] theorem State.postIncrement_halted (s : State) (a : RegIx) : (s.postIncrement a).halted = s.halted := rfl
@[simp] theorem State.postIncrement_exitStatus (s : State) (a : RegIx) : (s.postIncrement a).exitStatus = s.exitStatus := rfl
@[simp] theorem State.postIncrement_intAnswers (s : State) (a : RegIx) : (s.postIncrement a).intAnswers = s.intAnswers := rfl
@[simp] theorem State.postIncrement_charAnswers (s : State) (a : RegIx) : (s.postIncrement a).charAnswers = s.charAnswers := rfl
@[simp] theorem State.postIncrement_output (s : State) (a : RegIx) : (s.postIncrement a).output = s.output := rfl
@[simp] theorem State.postIncrement_dumps (s : State) (a : RegIx) : (s.postIncrement a).dumps = s.dumps := rfl
@[simp] theorem State.postIncrement_readMem (s : State) (a : RegIx) (addr : Byte) : (s.postIncrement a).readMem addr = s.readMem addr := rfl
@[simp] theorem State.postIncrement_readImem (s : State) (a : RegIx) (addr : Byte) : (s.postIncrement a).readImem addr = s.readImem addr := rfl
@[simp] theorem State.postIncrement_npc (s : State) (a : RegIx) : (s.postIncrement a).npc = s.npc := rfl

/-! ### `bump` -/

@[simp] theorem State.bump_pc (s : State) (a c : RegIx) : (s.bump a c).pc = s.pc := rfl
@[simp] theorem State.bump_mem (s : State) (a c : RegIx) : (s.bump a c).mem = s.mem := rfl
@[simp] theorem State.bump_imem (s : State) (a c : RegIx) : (s.bump a c).imem = s.imem := rfl
@[simp] theorem State.bump_halted (s : State) (a c : RegIx) : (s.bump a c).halted = s.halted := rfl
@[simp] theorem State.bump_exitStatus (s : State) (a c : RegIx) : (s.bump a c).exitStatus = s.exitStatus := rfl
@[simp] theorem State.bump_intAnswers (s : State) (a c : RegIx) : (s.bump a c).intAnswers = s.intAnswers := rfl
@[simp] theorem State.bump_charAnswers (s : State) (a c : RegIx) : (s.bump a c).charAnswers = s.charAnswers := rfl
@[simp] theorem State.bump_output (s : State) (a c : RegIx) : (s.bump a c).output = s.output := rfl
@[simp] theorem State.bump_dumps (s : State) (a c : RegIx) : (s.bump a c).dumps = s.dumps := rfl
@[simp] theorem State.bump_readMem (s : State) (a c : RegIx) (addr : Byte) : (s.bump a c).readMem addr = s.readMem addr := rfl
@[simp] theorem State.bump_readImem (s : State) (a c : RegIx) (addr : Byte) : (s.bump a c).readImem addr = s.readImem addr := rfl
@[simp] theorem State.bump_npc (s : State) (a c : RegIx) : (s.bump a c).npc = s.npc := rfl

/-! ### `emit` -/

@[simp] theorem State.emit_regs (s : State) (codes : List Byte) : (s.emit codes).regs = s.regs := rfl
@[simp] theorem State.emit_pc (s : State) (codes : List Byte) : (s.emit codes).pc = s.pc := rfl
@[simp] theorem State.emit_mem (s : State) (codes : List Byte) : (s.emit codes).mem = s.mem := rfl
@[simp] theorem State.emit_imem (s : State) (codes : List Byte) : (s.emit codes).imem = s.imem := rfl
@[simp] theorem State.emit_halted (s : State) (codes : List Byte) : (s.emit codes).halted = s.halted := rfl
@[simp] theorem State.emit_exitStatus (s : State) (codes : List Byte) : (s.emit codes).exitStatus = s.exitStatus := rfl
@[simp] theorem State.emit_intAnswers (s : State) (codes : List Byte) : (s.emit codes).intAnswers = s.intAnswers := rfl
@[simp] theorem State.emit_charAnswers (s : State) (codes : List Byte) : (s.emit codes).charAnswers = s.charAnswers := rfl
@[simp] theorem State.emit_output (s : State) (codes : List Byte) : (s.emit codes).output = s.output ++ codes := rfl
@[simp] theorem State.emit_dumps (s : State) (codes : List Byte) : (s.emit codes).dumps = s.dumps := rfl
@[simp] theorem State.emit_reg (s : State) (codes : List Byte) (r : RegIx) : (s.emit codes).reg r = s.reg r := rfl
@[simp] theorem State.emit_val (s : State) (codes : List Byte) (r : RegIx) : (s.emit codes).val r = s.val r := rfl
@[simp] theorem State.emit_readMem (s : State) (codes : List Byte) (addr : Byte) : (s.emit codes).readMem addr = s.readMem addr := rfl
@[simp] theorem State.emit_readImem (s : State) (codes : List Byte) (addr : Byte) : (s.emit codes).readImem addr = s.readImem addr := rfl
@[simp] theorem State.emit_npc (s : State) (codes : List Byte) : (s.emit codes).npc = s.npc := rfl

/-! ### `writeChar` -/

@[simp] theorem State.writeChar_regs (s : State) (v : Byte) : (s.writeChar v).regs = s.regs := rfl
@[simp] theorem State.writeChar_pc (s : State) (v : Byte) : (s.writeChar v).pc = s.pc := rfl
@[simp] theorem State.writeChar_mem (s : State) (v : Byte) : (s.writeChar v).mem = s.mem := rfl
@[simp] theorem State.writeChar_imem (s : State) (v : Byte) : (s.writeChar v).imem = s.imem := rfl
@[simp] theorem State.writeChar_halted (s : State) (v : Byte) : (s.writeChar v).halted = s.halted := rfl
@[simp] theorem State.writeChar_exitStatus (s : State) (v : Byte) : (s.writeChar v).exitStatus = s.exitStatus := rfl
@[simp] theorem State.writeChar_intAnswers (s : State) (v : Byte) : (s.writeChar v).intAnswers = s.intAnswers := rfl
@[simp] theorem State.writeChar_charAnswers (s : State) (v : Byte) : (s.writeChar v).charAnswers = s.charAnswers := rfl
@[simp] theorem State.writeChar_output (s : State) (v : Byte) : (s.writeChar v).output = s.output ++ [v] := rfl
@[simp] theorem State.writeChar_dumps (s : State) (v : Byte) : (s.writeChar v).dumps = s.dumps := rfl
@[simp] theorem State.writeChar_reg (s : State) (v : Byte) (r : RegIx) : (s.writeChar v).reg r = s.reg r := rfl
@[simp] theorem State.writeChar_val (s : State) (v : Byte) (r : RegIx) : (s.writeChar v).val r = s.val r := rfl
@[simp] theorem State.writeChar_readMem (s : State) (v : Byte) (addr : Byte) : (s.writeChar v).readMem addr = s.readMem addr := rfl
@[simp] theorem State.writeChar_readImem (s : State) (v : Byte) (addr : Byte) : (s.writeChar v).readImem addr = s.readImem addr := rfl
@[simp] theorem State.writeChar_npc (s : State) (v : Byte) : (s.writeChar v).npc = s.npc := rfl

/-! ### `writeDec` -/

@[simp] theorem State.writeDec_regs (s : State) (v : Byte) : (s.writeDec v).regs = s.regs := rfl
@[simp] theorem State.writeDec_pc (s : State) (v : Byte) : (s.writeDec v).pc = s.pc := rfl
@[simp] theorem State.writeDec_mem (s : State) (v : Byte) : (s.writeDec v).mem = s.mem := rfl
@[simp] theorem State.writeDec_imem (s : State) (v : Byte) : (s.writeDec v).imem = s.imem := rfl
@[simp] theorem State.writeDec_halted (s : State) (v : Byte) : (s.writeDec v).halted = s.halted := rfl
@[simp] theorem State.writeDec_exitStatus (s : State) (v : Byte) : (s.writeDec v).exitStatus = s.exitStatus := rfl
@[simp] theorem State.writeDec_intAnswers (s : State) (v : Byte) : (s.writeDec v).intAnswers = s.intAnswers := rfl
@[simp] theorem State.writeDec_charAnswers (s : State) (v : Byte) : (s.writeDec v).charAnswers = s.charAnswers := rfl
@[simp] theorem State.writeDec_output (s : State) (v : Byte) : (s.writeDec v).output = s.output ++ decimalCodes v := rfl
@[simp] theorem State.writeDec_dumps (s : State) (v : Byte) : (s.writeDec v).dumps = s.dumps := rfl
@[simp] theorem State.writeDec_reg (s : State) (v : Byte) (r : RegIx) : (s.writeDec v).reg r = s.reg r := rfl
@[simp] theorem State.writeDec_val (s : State) (v : Byte) (r : RegIx) : (s.writeDec v).val r = s.val r := rfl
@[simp] theorem State.writeDec_readMem (s : State) (v : Byte) (addr : Byte) : (s.writeDec v).readMem addr = s.readMem addr := rfl
@[simp] theorem State.writeDec_readImem (s : State) (v : Byte) (addr : Byte) : (s.writeDec v).readImem addr = s.readImem addr := rfl
@[simp] theorem State.writeDec_npc (s : State) (v : Byte) : (s.writeDec v).npc = s.npc := rfl

/-! ### `dump` -/

@[simp] theorem State.dump_regs (s : State) : (s.dump).regs = s.regs := rfl
@[simp] theorem State.dump_pc (s : State) : (s.dump).pc = s.pc := rfl
@[simp] theorem State.dump_mem (s : State) : (s.dump).mem = s.mem := rfl
@[simp] theorem State.dump_imem (s : State) : (s.dump).imem = s.imem := rfl
@[simp] theorem State.dump_halted (s : State) : (s.dump).halted = s.halted := rfl
@[simp] theorem State.dump_exitStatus (s : State) : (s.dump).exitStatus = s.exitStatus := rfl
@[simp] theorem State.dump_intAnswers (s : State) : (s.dump).intAnswers = s.intAnswers := rfl
@[simp] theorem State.dump_charAnswers (s : State) : (s.dump).charAnswers = s.charAnswers := rfl
@[simp] theorem State.dump_output (s : State) : (s.dump).output = s.output := rfl
@[simp] theorem State.dump_dumps (s : State) : (s.dump).dumps = s.dumps ++ [s.snapshot] := rfl
@[simp] theorem State.dump_reg (s : State) (r : RegIx) : (s.dump).reg r = s.reg r := rfl
@[simp] theorem State.dump_val (s : State) (r : RegIx) : (s.dump).val r = s.val r := rfl
@[simp] theorem State.dump_readMem (s : State) (addr : Byte) : (s.dump).readMem addr = s.readMem addr := rfl
@[simp] theorem State.dump_readImem (s : State) (addr : Byte) : (s.dump).readImem addr = s.readImem addr := rfl
@[simp] theorem State.dump_npc (s : State) : (s.dump).npc = s.npc := rfl

/-! ### Registers -/

/-- Reading a register after writing one. -/
theorem State.reg_setReg (s : State) (i r : RegIx) (v : Byte) :
    (s.setReg i v).reg r = if r = i then v else s.reg r := by
  simp [State.setReg, State.reg, Vector.getElem_set, Fin.ext_iff, eq_comm]

@[simp] theorem State.reg_setReg_same (s : State) (i : RegIx) (v : Byte) :
    (s.setReg i v).reg i = v := by simp [State.reg_setReg]

@[simp] theorem State.reg_setReg_ne (s : State) {i r : RegIx} (h : r ≠ i) (v : Byte) :
    (s.setReg i v).reg r = s.reg r := by simp [State.reg_setReg, h]

@[simp] theorem State.val_setReg_same (s : State) (i : RegIx) (v : Byte) :
    (s.setReg i v).val i = v.toNat := by simp [State.val]

@[simp] theorem State.val_setReg_ne (s : State) {i r : RegIx} (h : r ≠ i) (v : Byte) :
    (s.setReg i v).val r = s.val r := by simp [State.val, h]

/-- A register's value is in [0, 255] (R10). -/
theorem State.val_lt (s : State) (i : RegIx) : s.val i < 256 := (s.reg i).isLt

/-- Two register files that agree on every register are equal. -/
theorem regs_ext {s t : State} (h : ∀ r : RegIx, s.reg r = t.reg r) : s.regs = t.regs :=
  Vector.ext fun i hi => h ⟨i, hi⟩

/-! ### Reset -/

@[simp] theorem State.reset_reg (r : RegIx) : State.reset.reg r = 0 := by
  simp [State.reset, State.reg]

@[simp] theorem State.reset_readMem (a : Byte) : State.reset.readMem a = 0 := rfl

@[simp] theorem State.reset_readImem (a : Byte) : State.reset.readImem a = 0 := rfl

end Sys2Proof.Machine
end

