-- ==== Sys2Proof/Laws/Memory.lean ====
section
/-! SUPPORT. The laws of a memory: a read after a write, and that every operation keeps the canonical
form, in which equal contents are equal lists. -/

namespace Sys2Proof.Machine

variable {w : Nat}

/-! ### A read after a write -/

@[simp] theorem Memory.read_nil (a : Nat) : Memory.read ([] : Memory w) a = 0 := rfl

theorem Memory.read_cons (k : Nat) (v : BitVec w) (m : Memory w) (a : Nat) :
    Memory.read ((k, v) :: m) a = if k = a then v else m.read a := rfl

theorem Memory.read_insert (m : Memory w) (a b : Nat) (v : BitVec w) :
    (m.insert a v).read b = if b = a then v else m.read b := by
  induction m with
  | nil => simp [Memory.insert, Memory.read_cons, eq_comm]
  | cons cell rest ih =>
    obtain ⟨k, u⟩ := cell
    simp only [Memory.insert]
    split
    · simp [Memory.read_cons, eq_comm]
    · split
      · subst k
        simp only [Memory.read_cons]
        by_cases hb : b = a
        · simp [hb]
        · simp [hb, Ne.symm hb]
      · rw [Memory.read_cons, ih, Memory.read_cons]
        by_cases hb : b = a
        · subst hb; simp [show k ≠ b by omega]
        · simp [hb]

theorem Memory.read_erase (m : Memory w) (a b : Nat) :
    Memory.read (m.filter fun cell => cell.1 ≠ a) b = if b = a then 0 else m.read b := by
  induction m with
  | nil => simp
  | cons cell rest ih =>
    obtain ⟨k, u⟩ := cell
    by_cases hk : k = a
    · subst hk; simp only [ne_eq, decide_not] at ih ⊢
      by_cases hb : b = k
      · simp [hb] at ih ⊢; exact ih
      · simp [hb] at ih ⊢; rw [ih, Memory.read_cons]; simp [Ne.symm hb]
    · simp only [ne_eq, decide_not, List.filter_cons, hk, decide_false, Bool.not_false, if_true] at ih ⊢
      rw [Memory.read_cons, ih, Memory.read_cons]
      by_cases hb : b = a
      · subst hb; simp [hk]
      · simp [hb]

/-- A cell reads as what was last written to it, and a write changes no other cell (R34, R39). -/
theorem Memory.read_write (m : Memory w) (a b : Nat) (v : BitVec w) :
    (m.write a v).read b = if b = a then v else m.read b := by
  unfold Memory.write
  split
  · next h => subst h; exact m.read_erase a b
  · exact m.read_insert a b v

theorem State.readMem_writeMem (s : State) (a v b : Byte) :
    (s.writeMem a v).readMem b = if b = a then v else s.readMem b := by
  simp [State.writeMem, State.readMem, Memory.read_write, BitVec.toNat_inj]

@[simp] theorem State.readMem_writeMem_same (s : State) (a v : Byte) :
    (s.writeMem a v).readMem a = v := by simp [State.readMem_writeMem]

@[simp] theorem State.readMem_writeMem_ne (s : State) {a b : Byte} (h : b ≠ a) (v : Byte) :
    (s.writeMem a v).readMem b = s.readMem b := by simp [State.readMem_writeMem, h]

/-! ### The canonical form -/

variable {size : Nat}

@[simp] theorem Memory.wf_nil : Memory.wf size ([] : Memory w) = true := rfl

theorem Memory.wfFrom_cons (lo k : Nat) (v : BitVec w) (m : Memory w) :
    Memory.wfFrom size lo ((k, v) :: m) = true ↔
      lo ≤ k ∧ k < size ∧ v ≠ 0 ∧ Memory.wfFrom size (k + 1) m = true := by
  simp [Memory.wfFrom, and_assoc]

theorem Memory.wfFrom_mono {lo lo' : Nat} (h : lo' ≤ lo) {m : Memory w}
    (hm : Memory.wfFrom size lo m = true) : Memory.wfFrom size lo' m = true := by
  cases m with
  | nil => rfl
  | cons cell rest =>
    obtain ⟨k, v⟩ := cell
    rw [Memory.wfFrom_cons] at hm ⊢
    exact ⟨by omega, hm.2⟩

theorem Memory.wfFrom_erase (p : Nat × BitVec w → Bool) {m : Memory w} :
    ∀ {lo : Nat}, Memory.wfFrom size lo m = true → Memory.wfFrom size lo (m.filter p) = true := by
  induction m with
  | nil => intro _ _; rfl
  | cons cell rest ih =>
    intro lo hm
    obtain ⟨k, v⟩ := cell
    rw [Memory.wfFrom_cons] at hm
    rw [List.filter_cons]
    split
    · rw [Memory.wfFrom_cons]; exact ⟨hm.1, hm.2.1, hm.2.2.1, ih hm.2.2.2⟩
    · exact Memory.wfFrom_mono (by omega) (ih hm.2.2.2)

theorem Memory.wfFrom_insert {m : Memory w} {a : Nat} {v : BitVec w} (ha : a < size) (hv : v ≠ 0) :
    ∀ {lo : Nat}, lo ≤ a → Memory.wfFrom size lo m = true →
      Memory.wfFrom size lo (m.insert a v) = true := by
  induction m with
  | nil => intro lo hlo _; simpa [Memory.insert, Memory.wfFrom, hlo, ha] using hv
  | cons cell rest ih =>
    intro lo hlo hm
    obtain ⟨k, u⟩ := cell
    rw [Memory.wfFrom_cons] at hm
    simp only [Memory.insert]
    split
    · rw [Memory.wfFrom_cons, Memory.wfFrom_cons]
      exact ⟨hlo, ha, hv, by omega, hm.2⟩
    · split
      · subst k; rw [Memory.wfFrom_cons]; exact ⟨hlo, ha, hv, hm.2.2.2⟩
      · rw [Memory.wfFrom_cons]; exact ⟨hm.1, hm.2.1, hm.2.2.1, ih (by omega) hm.2.2.2⟩

/-- A write inside the memory keeps the canonical form. -/
theorem Memory.wf_write {m : Memory w} {a : Nat} (ha : a < size) (v : BitVec w)
    (hm : m.wf size = true) : (m.write a v).wf size = true := by
  unfold Memory.write
  split
  · exact Memory.wfFrom_erase _ hm
  · next hv => exact Memory.wfFrom_insert ha hv (Nat.zero_le _) hm

theorem Memory.read_below {lo : Nat} {m : Memory w} (hm : Memory.wfFrom size lo m = true) {a : Nat}
    (ha : a < lo) : m.read a = 0 := by
  induction m generalizing lo with
  | nil => rfl
  | cons cell rest ih =>
    obtain ⟨k, v⟩ := cell
    rw [Memory.wfFrom_cons] at hm
    rw [Memory.read_cons, if_neg (by omega)]
    exact ih hm.2.2.2 (by omega)

/-- Memories in canonical form with the same contents are the same list. -/
theorem Memory.ext_of_wf {m m' : Memory w} :
    ∀ {lo : Nat}, Memory.wfFrom size lo m = true → Memory.wfFrom size lo m' = true →
      (∀ a, a < size → m.read a = m'.read a) → m = m' := by
  induction m generalizing m' with
  | nil =>
    intro lo _ hm' h
    cases m' with
    | nil => rfl
    | cons cell rest =>
      obtain ⟨k, v⟩ := cell
      rw [Memory.wfFrom_cons] at hm'
      exact absurd (h k hm'.2.1).symm (by simpa [Memory.read_cons] using hm'.2.2.1)
  | cons cell rest ih =>
    intro lo hm hm' h
    obtain ⟨k, v⟩ := cell
    rw [Memory.wfFrom_cons] at hm
    cases m' with
    | nil => exact absurd (h k hm.2.1) (by simpa [Memory.read_cons] using hm.2.2.1)
    | cons cell' rest' =>
      obtain ⟨k', v'⟩ := cell'
      rw [Memory.wfFrom_cons] at hm'
      have hk : k = k' := by
        by_contra hne
        rcases Nat.lt_or_gt_of_ne hne with hlt | hgt
        · have := h k hm.2.1
          rw [Memory.read_cons, if_pos rfl, Memory.read_cons, if_neg (by omega),
            Memory.read_below hm'.2.2.2 (by omega)] at this
          exact hm.2.2.1 this
        · have := h k' hm'.2.1
          rw [Memory.read_cons, if_neg (by omega), Memory.read_below hm.2.2.2 (by omega),
            Memory.read_cons, if_pos rfl] at this
          exact hm'.2.2.1 this.symm
      subst hk
      have hv : v = v' := by simpa [Memory.read_cons] using h k hm.2.1
      subst hv
      rw [ih hm.2.2.2 hm'.2.2.2]
      intro a ha
      by_cases hak : a ≤ k
      · rw [Memory.read_below hm.2.2.2 (by omega), Memory.read_below hm'.2.2.2 (by omega)]
      · simpa [Memory.read_cons, show k ≠ a by omega] using h a ha

/-! ### The state's operations keep its form -/

theorem State.wf_iff (s : State) : s.wf = true ↔
    s.mem.wf Config.dataCells = true ∧ s.imem.wf Config.instrCells = true ∧
      s.dumps.all Dump.wf = true := by
  simp [State.wf, and_assoc]

theorem State.wf_writeMem {s : State} (h : s.wf = true) (a v : Byte) : (s.writeMem a v).wf = true := by
  rw [State.wf_iff] at h ⊢
  exact ⟨Memory.wf_write a.isLt v h.1, h.2⟩

theorem State.wf_placeInstruction {s : State} (h : s.wf = true) (w : Word) :
    (s.placeInstruction w).wf = true := by
  rw [State.wf_iff] at h ⊢
  exact ⟨h.1, Memory.wf_write s.pc.isLt w h.2.1, h.2.2⟩

theorem State.wf_dump {s : State} (h : s.wf = true) : s.dump.wf = true := by
  rw [State.wf_iff] at h ⊢
  refine ⟨h.1, h.2.1, ?_⟩
  simp only [State.dump_dumps, List.all_append, h.2.2, Bool.true_and]
  simp [Dump.wf, State.snapshot, h.1, h.2.1]

/-- The form depends on nothing but the two memories and the dumps. -/
theorem State.wf_congr {s t : State} (hm : t.mem = s.mem) (hi : t.imem = s.imem)
    (hd : t.dumps = s.dumps) : t.wf = s.wf := by simp [State.wf, hm, hi, hd]

@[simp] theorem State.wf_setReg (s : State) (i : RegIx) (v : Byte) : (s.setReg i v).wf = s.wf := rfl
@[simp] theorem State.wf_setPc (s : State) (t : Byte) : (s.setPc t).wf = s.wf := rfl
@[simp] theorem State.wf_advance (s : State) : s.advance.wf = s.wf := rfl
@[simp] theorem State.wf_halt (s : State) (v : Byte) : (s.halt v).wf = s.wf := rfl
@[simp] theorem State.wf_emit (s : State) (cs : List Byte) : (s.emit cs).wf = s.wf := rfl


end Sys2Proof.Machine
end

