-- ==== Sys2Proof/Laws/Loader.lean ====
section
/-! SUPPORT. What the load's operations do: a memory filled with words, the registers loaded, and the
words a dump keeps. -/

namespace Sys2Proof.Machine

variable {w : Nat}

/-- A filled memory reads as the words where they were put, and as before elsewhere (R166, R167). -/
theorem Memory.read_fill (words : List Nat) : ∀ (m : Memory w) (a b : Nat),
    (m.fill a words).read b =
      if a ≤ b ∧ b < a + words.length then BitVec.ofNat w (words.getD (b - a) 0) else m.read b := by
  induction words with
  | nil => intro m a b; simp [Memory.fill, show ¬(a ≤ b ∧ b < a) by omega]
  | cons word words ih =>
    intro m a b
    rw [Memory.fill, ih, Memory.read_write]
    rcases Nat.lt_trichotomy b a with h | h | h
    · rw [if_neg (by omega), if_neg (by omega), if_neg (by omega)]
    · subst h; simp
    · have e : b - a = (b - (a + 1)) + 1 := by omega
      by_cases hb : b < a + 1 + words.length
      · rw [if_pos ⟨by omega, hb⟩, if_pos ⟨by omega, by simp; omega⟩, e, List.getD_cons_succ]
      · rw [if_neg (by omega), if_neg (by omega), if_neg (by simp; omega)]

/-- Words that fit keep the canonical form. -/
theorem Memory.wf_fill {size : Nat} (words : List Nat) : ∀ {m : Memory w} {a : Nat},
    a + words.length ≤ size → m.wf size = true → (m.fill a words).wf size = true := by
  induction words with
  | nil => intro _ _ _ h; exact h
  | cons word words ih =>
    intro m a ha h
    simp only [List.length_cons] at ha
    exact ih (by omega) (Memory.wf_write (by omega) _ h)

/-- Loading registers changes only registers. -/
theorem State.loadRegs_frame (words : List Nat) : ∀ (s : State) (i : Nat),
    s.loadRegs i words = { s with regs := (s.loadRegs i words).regs } := by
  induction words with
  | nil => intro s i; rfl
  | cons word words ih => intro s i; rw [State.loadRegs, ih]; rfl

/-- The registers loaded hold the words, and the others what they held (R166, R167). -/
theorem State.loadRegs_reg (words : List Nat) : ∀ (s : State) (i : Nat) (r : RegIx),
    i + words.length ≤ 16 →
    (s.loadRegs i words).reg r =
      if i ≤ r.val ∧ r.val < i + words.length then BitVec.ofNat 8 (words.getD (r.val - i) 0)
      else s.reg r := by
  induction words with
  | nil => intro s i r _; simp [State.loadRegs, show ¬(i ≤ r.val ∧ r.val < i) by omega]
  | cons word words ih =>
    intro s i r hi
    simp only [List.length_cons] at hi
    have hv : (Fin.ofNat 16 i).val = i := by simp; omega
    rw [State.loadRegs, ih _ _ _ (by omega), State.reg_setReg]
    rcases Nat.lt_trichotomy r.val i with h | h | h
    · rw [if_neg (by omega), if_neg (by intro e; rw [e, hv] at h; omega), if_neg (by omega)]
    · have e : r = Fin.ofNat 16 i := Fin.ext (by rw [hv]; exact h)
      rw [if_neg (by omega), if_pos e, if_pos (by simp; omega)]
      simp [h]
    · have e : r.val - i = (r.val - (i + 1)) + 1 := by omega
      by_cases hb : r.val < i + 1 + words.length
      · rw [if_pos ⟨by omega, hb⟩, if_pos ⟨by omega, by simp; omega⟩, e, List.getD_cons_succ]
      · rw [if_neg (by omega), if_neg (by intro e; rw [e, hv] at h; omega), if_neg (by simp; omega)]

/-- What follows a section in the stream is left there, and changes nothing of how the section reads
(R165). -/
theorem parseSection_append (more stream : List Char) : ∀ (acc : Option Nat) (words : List Nat)
    (rest : List Char), parseSection acc stream = .ok (words, rest) →
    parseSection acc (stream ++ more) = .ok (words, rest ++ more) := by
  induction stream with
  | nil => intro acc words rest h; simp [parseSection] at h
  | cons ch stream ih =>
    intro acc words rest h
    rw [List.cons_append]
    unfold parseSection at h ⊢
    split at h
    · next hc => cases h; rw [if_pos hc]
    next hc =>
    rw [if_neg hc]
    split at h
    · next hw =>
      rw [if_pos hw]
      split at h
      · cases h
      next hp => cases h; rw [ih _ _ _ hp]
    next hw =>
    rw [if_neg hw]
    split at h
    · cases h
    next => exact ih _ _ _ h

/-- What follows the fourth terminator is left in the stream (R162). -/
theorem parseImage_append (more : List Char) {stream : List Char} {x : Sections} {rest : List Char}
    (h : parseImage stream = .ok (x, rest)) :
    parseImage (stream ++ more) = .ok (x, rest ++ more) := by
  unfold parseImage at h
  split at h
  · cases h
  next h1 =>
  split at h
  · cases h
  next h2 =>
  split at h
  · cases h
  next h3 =>
  split at h
  · cases h
  next h4 =>
  cases h
  simp only [parseImage, parseSection_append more _ _ _ _ h1, parseSection_append more _ _ _ _ h2,
    parseSection_append more _ _ _ _ h3, parseSection_append more _ _ _ _ h4]

/-- The words left out at the end of a dump's section are zeros (R130). -/
theorem getD_past_lastNonzeroEnd (words : List Nat) : ∀ i, lastNonzeroEnd words ≤ i →
    words.getD i 0 = 0 := by
  induction words with
  | nil => intro i _; simp
  | cons word words ih =>
    intro i hi
    rw [lastNonzeroEnd] at hi
    cases i with
    | zero =>
      split at hi
      · split at hi
        · next h => simp [h]
        · omega
      · omega
    | succ i =>
      rw [List.getD_cons_succ]
      apply ih
      split at hi
      · next h => omega
      · next h => omega

/-- Leaving out trailing zeros changes no word read, a missing one reading as 0. -/
theorem getD_dropTrailingZeros (least : Nat) (words : List Nat) (i : Nat) :
    (dropTrailingZeros least words).getD i 0 = words.getD i 0 := by
  unfold dropTrailingZeros
  by_cases h : i < max least (lastNonzeroEnd words)
  · simp [List.getD_eq_getElem?_getD, h]
  · rw [getD_past_lastNonzeroEnd words i (by omega)]
    simp [List.getD_eq_getElem?_getD, h]

theorem length_dropTrailingZeros_le (least : Nat) (words : List Nat) :
    (dropTrailingZeros least words).length ≤ words.length := by
  unfold dropTrailingZeros; simp

/-- A section with no more words than its least number keeps them all. -/
theorem dropTrailingZeros_of_length_le {least : Nat} {words : List Nat} (h : words.length ≤ least) :
    dropTrailingZeros least words = words := by
  unfold dropTrailingZeros; exact List.take_of_length_le (by omega)

/-- The register section of a dump is the 16 registers, zeros included (R130, D12). -/
@[simp] theorem Dump.sections_registers (d : Dump) (least : MinIndex) :
    (d.sections least).registers = d.regs.toList.map BitVec.toNat :=
  dropTrailingZeros_of_length_le (by simp [Config.dumpMinRegisters])

end Sys2Proof.Machine
end

