-- ==== Sys2Proof/Laws/Operations.lean ====
section
/-! SUPPORT. What each shared operation does, said once: the arithmetic of `scale`, the operand forms,
the register-flag protocol, and the reads from the environment. Proofs cite these and do not unfold the
operations. -/

namespace Sys2Proof.Machine

/-! ### `scale` (R5) -/

/-- The value of `scale x` is the floored remainder of `x` by 256. -/
theorem scale_toNat (x : Int) : (scale x).toNat = (x % 256).toNat := by
  simp [scale, BitVec.toNat_ofInt]

/-- On a natural number, `scale` is reduction modulo 256. -/
@[simp] theorem scale_natCast (n : Nat) : (scale (n : Int)).toNat = n % 256 := by
  rw [scale_toNat]; omega

theorem scale_toNat_of_lt {n : Nat} (h : n < 256) : (scale (n : Int)).toNat = n := by
  rw [scale_natCast, Nat.mod_eq_of_lt h]

/-! ### Addresses and the stack pointer (R35, R36) -/

theorem indexedAddr_toNat (x y : Byte) : (indexedAddr x y).toNat = (x.toNat + y.toNat) % 256 := by
  unfold indexedAddr; rw [scale_toNat]; omega

theorem npc_toNat (s : State) : s.npc.toNat = (s.pc.toNat + 1) % 256 := by
  simp [State.npc, BitVec.toNat_add]

theorem preDecrement_reg (s : State) (a : RegIx) :
    (s.preDecrement a).reg a = scale (s.val a - 1) := by simp [State.preDecrement]

theorem preDecrement_reg_ne (s : State) {a r : RegIx} (h : r ≠ a) :
    (s.preDecrement a).reg r = s.reg r := by simp [State.preDecrement, h]

theorem preDecrement_val (s : State) (a : RegIx) :
    (s.preDecrement a).val a = (s.val a + 255) % 256 := by
  have := s.val_lt a
  rw [State.val, preDecrement_reg, scale_toNat]; omega

theorem postIncrement_val (s : State) (a : RegIx) :
    (s.postIncrement a).val a = (s.val a + 1) % 256 := by
  simp only [State.postIncrement, State.val_setReg_same, scale_toNat]; omega

theorem postIncrement_reg_ne (s : State) {a r : RegIx} (h : r ≠ a) :
    (s.postIncrement a).reg r = s.reg r := by simp [State.postIncrement, h]

theorem bump_val (s : State) (a c : RegIx) :
    (s.bump a c).val a = (s.val a + s.val c + 1) % 256 := by
  simp only [State.bump, State.val_setReg_same, scale_toNat]; omega

theorem bump_reg_ne (s : State) {a r : RegIx} (c : RegIx) (h : r ≠ a) :
    (s.bump a c).reg r = s.reg r := by simp [State.bump, h]

/-! ### Two-source operations (R81, R82) -/

/-- A two-source operation writes one register, advances `pc`, and changes nothing else. -/
theorem registerOp_eq (f : Int → Int → Int) (a b c : RegIx) (s : State) :
    registerOp f a b c s = s.advance.setReg a (scale (f (s.val b) (s.val c))) := rfl

theorem registerOp_val (f : Int → Int → Int) (a b c : RegIx) (s : State) :
    (registerOp f a b c s).val a = (f (s.val b) (s.val c) % 256).toNat := by
  rw [registerOp_eq, State.val_setReg_same, scale_toNat]

/-! ### The second register -/

/-- `a` and `a1` are never the same register (R12). -/
theorem nextReg_ne (a : RegIx) : nextReg a ≠ a := by unfold nextReg; revert a; decide

theorem nextReg_val (a : RegIx) : (nextReg a).val = (a.val + 1) % 16 := by
  unfold nextReg; revert a; decide

/-! ### The register-flag protocol (R151) -/

theorem reportRead_some (s : State) (a : RegIx) (v : Int) :
    (s.reportRead a (some v)).reg a = scale v ∧ (s.reportRead a (some v)).reg (nextReg a) = 1 ∧
      ∀ r, r ≠ a → r ≠ nextReg a → (s.reportRead a (some v)).reg r = s.reg r := by
  refine ⟨by simp [State.reportRead], by simp [State.reportRead, nextReg_ne, flagByte], ?_⟩
  intro r h h1
  simp [State.reportRead, h, h1]

theorem reportRead_none (s : State) (a : RegIx) :
    (s.reportRead a none).reg (nextReg a) = 0 ∧
      ∀ r, r ≠ nextReg a → (s.reportRead a none).reg r = s.reg r := by
  refine ⟨by simp [State.reportRead, flagByte], ?_⟩
  intro r h1
  simp [State.reportRead, h1]

/-- The protocol writes registers and nothing else. -/
theorem reportRead_frame (s : State) (a : RegIx) (v : Option Int) :
    s.reportRead a v = { s with regs := (s.reportRead a v).regs } := by
  cases v <;> rfl

/-! ### Reads from the environment (R121, R131) -/

theorem readInt_eq_some {s s1 : State} {r : IntAnswer} (h : s.readInt = some (r, s1)) :
    s.intAnswers = r :: s1.intAnswers ∧ s1 = { s with intAnswers := s1.intAnswers } := by
  unfold State.readInt at h
  split at h
  · cases h
  · next hq => cases h; exact ⟨hq, rfl⟩

theorem readInt_eq_none {s : State} : s.readInt = none ↔ s.intAnswers = [] := by
  unfold State.readInt; split <;> simp_all

theorem readChar_eq_some {s s1 : State} {r : CharAnswer} (h : s.readChar = some (r, s1)) :
    s.charAnswers = r :: s1.charAnswers ∧ s1 = { s with charAnswers := s1.charAnswers } := by
  unfold State.readChar at h
  split at h
  · cases h
  · next hq => cases h; exact ⟨hq, rfl⟩

theorem readChar_eq_none {s : State} : s.readChar = none ↔ s.charAnswers = [] := by
  unfold State.readChar; split <;> simp_all

/-! ### The string scan (R128) -/

theorem scanString_zero (m : Memory 8) (i : Nat) : scanString m 0 i = [] := rfl

theorem scanString_succ (m : Memory 8) (n i : Nat) :
    scanString m (n + 1) i = if m.read i = 0 then [] else m.read i :: scanString m n (i + 1) := rfl

theorem scanString_length_le (m : Memory 8) (n i : Nat) : (scanString m n i).length ≤ n := by
  induction n generalizing i with
  | zero => simp [scanString_zero]
  | succ n ih => rw [scanString_succ]; split <;> simp [ih]

end Sys2Proof.Machine
end

