-- ==== Sys2Proof/Laws/PerInstr.lean ====
section
/-! SUPPORT. The family FixedBits: the word of each instruction has the fixed bits its row of
spec/opcode_table.json gives ("match" under "mask"): the opcode in bits 15 to 12, and for the system
calls 0 to 5 the selector in bits 7 to 0. -/

namespace Sys2Proof

/-- The opcode of the instruction's row, from "match" in spec/opcode_table.json. -/
def Instr.tableOpcode : Instr → Nat
  | .div .. => 0
  | .push .. => 0
  | .halt .. => 0
  | .recallBump .. => 1
  | .pop .. => 1
  | .ret .. => 1
  | .clt .. => 2
  | .shl .. => 2
  | .sub .. => 3
  | .shr .. => 3
  | .ldx .. => 4
  | .add .. => 4
  | .stx .. => 5
  | .or .. => 5
  | .mul .. => 6
  | .and .. => 6
  | .callx .. => 7
  | .xor .. => 7
  | .jz .. => 8
  | .jnz .. => 9
  | .calls .. => 10
  | .call .. => 11
  | .ldr .. => 12
  | .str .. => 13
  | .ldc .. => 14
  | .sys0 .. => 15
  | .sys1 .. => 15
  | .sys2 .. => 15
  | .sys3 .. => 15
  | .sys4 .. => 15
  | .sys5 .. => 15
  | .sysN .. => 15

/-- The selector in the fixed bits of the instruction's row, for the rows whose mask is 0xF0FF. -/
def Instr.tableSelector : Instr → Option Nat
  | .div .. => none
  | .push .. => none
  | .halt .. => none
  | .recallBump .. => none
  | .pop .. => none
  | .ret .. => none
  | .clt .. => none
  | .shl .. => none
  | .sub .. => none
  | .shr .. => none
  | .ldx .. => none
  | .add .. => none
  | .stx .. => none
  | .or .. => none
  | .mul .. => none
  | .and .. => none
  | .callx .. => none
  | .xor .. => none
  | .jz .. => none
  | .jnz .. => none
  | .calls .. => none
  | .call .. => none
  | .ldr .. => none
  | .str .. => none
  | .ldc .. => none
  | .sys0 .. => some 0
  | .sys1 .. => some 1
  | .sys2 .. => some 2
  | .sys3 .. => some 3
  | .sys4 .. => some 4
  | .sys5 .. => some 5
  | .sysN .. => none

/-- The word has the row's opcode in bits 15 to 12, and the row's selector, where it fixes one, in bits 7
to 0. -/
def Laws.FixedBits.Statement (i : Instr) : Prop :=
  (encode i).toNat / 4096 = i.tableOpcode ∧
    ∀ k, i.tableSelector = some k → (encode i).toNat % 256 = k

namespace Laws.FixedBits

/-- The fixed bits of a word of format ABC. -/
theorem of_wordABC {i : Instr} {op : Nat} (hop : op < 16) (a b c : RegIx)
    (he : encode i = wordABC op a b c) (ht : i.tableOpcode = op) (hs : i.tableSelector = none) :
    Statement i := by
  refine ⟨?_, fun k hk => by simp [hs] at hk⟩
  rw [he, ht, wordABC_toNat hop]; omega

/-- The fixed bits of a word of format AI whose row fixes no selector. -/
theorem of_wordAI {i : Instr} {op : Nat} (hop : op < 16) (a : RegIx) (imm : Byte)
    (he : encode i = wordAI op a imm) (ht : i.tableOpcode = op)
    (hs : ∀ k, i.tableSelector = some k → imm.toNat = k) : Statement i := by
  have := imm.isLt
  refine ⟨?_, fun k hk => ?_⟩
  · rw [he, ht, wordAI_toNat hop]; omega
  · rw [he, wordAI_toNat hop, ← hs k hk]; omega

theorem div (a b c : RegIx) : Statement (.div a b c) :=
  of_wordABC (by decide) a b c rfl rfl rfl

theorem push (a b : RegIx) : Statement (.push a b) :=
  of_wordABC (by decide) a b b rfl rfl rfl

theorem halt (a : RegIx) : Statement (.halt a) :=
  of_wordABC (by decide) a a a rfl rfl rfl

theorem recallBump (a b c : RegIx) : Statement (.recallBump a b c) :=
  of_wordABC (by decide) a b c rfl rfl rfl

theorem pop (a b : RegIx) : Statement (.pop a b) :=
  of_wordABC (by decide) a b a rfl rfl rfl

theorem ret (a c : RegIx) : Statement (.ret a c) :=
  of_wordABC (by decide) a a c rfl rfl rfl

theorem clt (a b c : RegIx) : Statement (.clt a b c) :=
  of_wordABC (by decide) a b c rfl rfl rfl

theorem shl (a b : RegIx) : Statement (.shl a b) :=
  of_wordABC (by decide) a b b rfl rfl rfl

theorem sub (a b c : RegIx) : Statement (.sub a b c) :=
  of_wordABC (by decide) a b c rfl rfl rfl

theorem shr (a b : RegIx) : Statement (.shr a b) :=
  of_wordABC (by decide) a b b rfl rfl rfl

theorem ldx (a b c : RegIx) : Statement (.ldx a b c) :=
  of_wordABC (by decide) a b c rfl rfl rfl

theorem add (a b c : RegIx) : Statement (.add a b c) :=
  of_wordABC (by decide) a b c rfl rfl rfl

theorem stx (a b c : RegIx) : Statement (.stx a b c) :=
  of_wordABC (by decide) a b c rfl rfl rfl

theorem or (a b c : RegIx) : Statement (.or a b c) :=
  of_wordABC (by decide) a b c rfl rfl rfl

theorem mul (a b c : RegIx) : Statement (.mul a b c) :=
  of_wordABC (by decide) a b c rfl rfl rfl

theorem and (a b c : RegIx) : Statement (.and a b c) :=
  of_wordABC (by decide) a b c rfl rfl rfl

theorem callx (a b c : RegIx) : Statement (.callx a b c) :=
  of_wordABC (by decide) a b c rfl rfl rfl

theorem xor (a b c : RegIx) : Statement (.xor a b c) :=
  of_wordABC (by decide) a b c rfl rfl rfl

theorem jz (a : RegIx) (imm : Byte) : Statement (.jz a imm) :=
  of_wordAI (by decide) a imm rfl rfl (by intro k hk; cases hk)

theorem jnz (a : RegIx) (imm : Byte) : Statement (.jnz a imm) :=
  of_wordAI (by decide) a imm rfl rfl (by intro k hk; cases hk)

theorem calls (a : RegIx) (imm : Byte) : Statement (.calls a imm) :=
  of_wordAI (by decide) a imm rfl rfl (by intro k hk; cases hk)

theorem call (a : RegIx) (imm : Byte) : Statement (.call a imm) :=
  of_wordAI (by decide) a imm rfl rfl (by intro k hk; cases hk)

theorem ldr (a : RegIx) (imm : Byte) : Statement (.ldr a imm) :=
  of_wordAI (by decide) a imm rfl rfl (by intro k hk; cases hk)

theorem str (a : RegIx) (imm : Byte) : Statement (.str a imm) :=
  of_wordAI (by decide) a imm rfl rfl (by intro k hk; cases hk)

theorem ldc (a : RegIx) (imm : Byte) : Statement (.ldc a imm) :=
  of_wordAI (by decide) a imm rfl rfl (by intro k hk; cases hk)

theorem sys0 (a : RegIx) : Statement (.sys0 a) :=
  of_wordAI (by decide) a 0 rfl rfl (by intro k hk; cases hk; rfl)

theorem sys1 (a : RegIx) : Statement (.sys1 a) :=
  of_wordAI (by decide) a 1 rfl rfl (by intro k hk; cases hk; rfl)

theorem sys2 (a : RegIx) : Statement (.sys2 a) :=
  of_wordAI (by decide) a 2 rfl rfl (by intro k hk; cases hk; rfl)

theorem sys3 (a : RegIx) : Statement (.sys3 a) :=
  of_wordAI (by decide) a 3 rfl rfl (by intro k hk; cases hk; rfl)

theorem sys4 (a : RegIx) : Statement (.sys4 a) :=
  of_wordAI (by decide) a 4 rfl rfl (by intro k hk; cases hk; rfl)

theorem sys5 (a : RegIx) : Statement (.sys5 a) :=
  of_wordAI (by decide) a 5 rfl rfl (by intro k hk; cases hk; rfl)

theorem sysN (a : RegIx) (imm : Byte) : Statement (.sysN a imm) :=
  of_wordAI (by decide) a imm rfl rfl (by intro k hk; cases hk)

end Laws.FixedBits

end Sys2Proof
end

