-- ==== Sys2Proof/Tests/Slice0.lean ====
section
/-! SUPPORT. The model's own tests: well-formedness, decoding, one step of each instruction, the load
image, and a witness for the hypotheses of each obligation. Every expected result is the spec's
(95_test_vectors.md, and 30_encoding.md R55 to R62 for the words), or worked out by hand from a rule
where the comment says so. -/

namespace Sys2Proof.Tests

open Sys2Proof Sys2Proof.Machine

/-! ### Small states -/

/-- Reset, with these registers, data cells and program counter. -/
def engine (x : List (RegIx × Byte)) (cells : List (Nat × Byte) := []) (pc : Byte := 0) : State :=
  { State.reset with
    regs := x.foldl (fun v p => v.set p.1 p.2) State.reset.regs
    mem := cells
    pc := pc }

/-- What `look` sees of the state after one step of the instruction `word`. -/
def after {α : Type} (word : Nat) (s : State) (look : State → α) : Option α :=
  (nextState (step (s.withFetchWord 16 word))).map look

/-! ### Well-formedness: what each check refuses (R55 to R60) -/

theorem test_wf_refuses_div : Instr.wf (.div 3 4 4) = false := by decide
theorem test_wf_refuses_push : Instr.wf (.push 5 5) = false := by decide
theorem test_wf_refuses_recall_pop : Instr.wf (.recallBump 5 2 5) = false := by decide
theorem test_wf_refuses_recall_ret : Instr.wf (.recallBump 5 5 2) = false := by decide
theorem test_wf_refuses_pop : Instr.wf (.pop 5 5) = false := by decide
theorem test_wf_refuses_clt : Instr.wf (.clt 1 7 7) = false := by decide
theorem test_wf_refuses_sub : Instr.wf (.sub 1 7 7) = false := by decide
theorem test_wf_refuses_ldx : Instr.wf (.ldx 1 3 2) = false := by decide
theorem test_wf_refuses_add_equal : Instr.wf (.add 1 2 2) = false := by decide
theorem test_wf_refuses_add_less : Instr.wf (.add 1 2 3) = false := by decide
theorem test_wf_refuses_stx : Instr.wf (.stx 1 3 2) = false := by decide
theorem test_wf_refuses_or : Instr.wf (.or 1 2 2) = false := by decide
theorem test_wf_refuses_mul : Instr.wf (.mul 1 3 2) = false := by decide
theorem test_wf_refuses_and : Instr.wf (.and 1 2 2) = false := by decide
theorem test_wf_refuses_callx : Instr.wf (.callx 1 3 2) = false := by decide
theorem test_wf_refuses_xor : Instr.wf (.xor 1 2 2) = false := by decide
theorem test_wf_refuses_sysN : Instr.wf (.sysN 1 5) = false := by decide

theorem test_wf_accepts :
    ([.div 3 3 4, .push 5 6, .halt 0, .recallBump 5 2 2, .pop 5 6, .ret 5 5, .clt 1 7 8,
      .shl 1 1, .sub 1 7 8, .shr 1 1, .ldx 1 2 2, .add 1 3 2, .stx 1 2 3,
      .or 1 3 2, .mul 1 2 2, .and 1 3 2, .callx 1 2 2, .xor 1 3 2, .sysN 1 6] : List Instr).all
      Instr.wf = true := by decide

/-! ### Decoding and encoding: the words of R55 to R62, written out -/

theorem test_decode_div : decode 0x0523 = .div 5 2 3 ∧ encode (.div 5 2 3) = 0x0523 := by decide
theorem test_decode_push : decode 0x0F11 = .push 15 1 ∧ encode (.push 15 1) = 0x0F11 := by decide
theorem test_decode_halt : decode 0x0333 = .halt 3 ∧ encode (.halt 3) = 0x0333 := by decide
theorem test_decode_recall : decode 0x1FED = .recallBump 15 14 13 ∧
      encode (.recallBump 15 14 13) = 0x1FED := by decide
theorem test_decode_pop : decode 0x1F2F = .pop 15 2 ∧ encode (.pop 15 2) = 0x1F2F := by decide
theorem test_decode_ret : decode 0x1DDE = .ret 13 14 ∧ encode (.ret 13 14) = 0x1DDE := by decide
theorem test_decode_clt : decode 0x2123 = .clt 1 2 3 ∧ encode (.clt 1 2 3) = 0x2123 := by decide
theorem test_decode_shl : decode 0x2122 = .shl 1 2 ∧ encode (.shl 1 2) = 0x2122 := by decide
theorem test_decode_sub : decode 0x3123 = .sub 1 2 3 ∧ encode (.sub 1 2 3) = 0x3123 := by decide
theorem test_decode_shr : decode 0x3122 = .shr 1 2 ∧ encode (.shr 1 2) = 0x3122 := by decide
theorem test_decode_ldx : decode 0x4123 = .ldx 1 2 3 ∧ encode (.ldx 1 2 3) = 0x4123 := by decide
theorem test_decode_add : decode 0x4132 = .add 1 3 2 ∧ encode (.add 1 3 2) = 0x4132 := by decide
theorem test_decode_stx : decode 0x5123 = .stx 1 2 3 ∧ encode (.stx 1 2 3) = 0x5123 := by decide
theorem test_decode_or : decode 0x5132 = .or 1 3 2 ∧ encode (.or 1 3 2) = 0x5132 := by decide
theorem test_decode_mul : decode 0x6534 = .mul 5 3 4 ∧ encode (.mul 5 3 4) = 0x6534 := by decide
theorem test_decode_and : decode 0x6132 = .and 1 3 2 ∧ encode (.and 1 3 2) = 0x6132 := by decide
theorem test_decode_callx : decode 0x7122 = .callx 1 2 2 ∧
      encode (.callx 1 2 2) = 0x7122 := by decide
theorem test_decode_xor : decode 0x7C96 = .xor 12 9 6 ∧ encode (.xor 12 9 6) = 0x7C96 := by decide
theorem test_decode_jz : decode 0x8180 = .jz 1 0x80 ∧ encode (.jz 1 0x80) = 0x8180 := by decide
theorem test_decode_jnz : decode 0x91FF = .jnz 1 0xFF ∧ encode (.jnz 1 0xFF) = 0x91FF := by decide
theorem test_decode_calls : decode 0xAE80 = .calls 14 0x80 ∧
      encode (.calls 14 0x80) = 0xAE80 := by decide
theorem test_decode_call : decode 0xBF80 = .call 15 0x80 ∧
      encode (.call 15 0x80) = 0xBF80 := by decide
theorem test_decode_ldr : decode 0xC4FE = .ldr 4 0xFE ∧ encode (.ldr 4 0xFE) = 0xC4FE := by decide
theorem test_decode_str : decode 0xD4FE = .str 4 0xFE ∧ encode (.str 4 0xFE) = 0xD4FE := by decide
theorem test_decode_ldc : decode 0xEF2A = .ldc 15 42 ∧ encode (.ldc 15 42) = 0xEF2A := by decide
theorem test_decode_sys0 : decode 0xF100 = .sys0 1 ∧ encode (.sys0 1) = 0xF100 := by decide
theorem test_decode_sys1 : decode 0xFF01 = .sys1 15 ∧ encode (.sys1 15) = 0xFF01 := by decide
theorem test_decode_sys2 : decode 0xF102 = .sys2 1 ∧ encode (.sys2 1) = 0xF102 := by decide
theorem test_decode_sys3 : decode 0xF103 = .sys3 1 ∧ encode (.sys3 1) = 0xF103 := by decide
theorem test_decode_sys4 : decode 0xF104 = .sys4 1 ∧ encode (.sys4 1) = 0xF104 := by decide
theorem test_decode_sys5 : decode 0xF105 = .sys5 1 ∧ encode (.sys5 1) = 0xF105 := by decide
theorem test_decode_sysN : decode 0xF106 = .sysN 1 6 ∧ encode (.sysN 1 6) = 0xF106 := by decide

/-- The bit positions of R51, one bit set at a time. -/
theorem test_fields :
    (fieldOpcode 0x1000, fieldOpcode 0x8000, fieldA 0x0100, fieldA 0x0800, fieldB 0x0010,
      fieldB 0x0080, fieldC 0x0001, fieldC 0x0008, fieldImm 0x0081) =
    (1, 8, 1, 8, 1, 8, 1, 8, 0x81) := by decide

/-- The last selector is a no-op too, and a table word is read as the same word (R60). -/
theorem test_decodeTableWord :
    decodeTableWord 16 0xFFFF = some (.sysN 15 255) ∧ decodeTableWord 8 0x12 = some (.div 0 1 2) ∧
      decodeTableWord 16 0x10000 = none := by decide

/-! ### One step of each instruction (95_test_vectors.md section 2) -/

theorem test_div_quotient_first : after 0x0323 (engine [(2, 99), (3, 10)])
    (fun t => (t.val 3, t.val 4, t.pc)) = some (9, 0, 1) := by decide
theorem test_mul : after 0x6F34 (engine [(3, 100), (4, 100)])
    (fun t => (t.val 15, t.val 0, t.pc)) = some (16, 39, 1) := by decide
theorem test_mul_high_first : after 0x6345 (engine [(4, 200), (5, 3)])
    (fun t => (t.val 4, t.val 3, t.pc)) = some (2, 6, 1) := by decide
theorem test_clt_unsigned : after 0x2123 (engine [(2, 200), (3, 100), (1, 9)])
    (fun t => (t.val 1, t.pc)) = some (0, 1) := by decide
theorem test_clt_less : after 0x2223 (engine [(2, 3), (3, 5)])
    (fun t => (t.val 2, t.pc)) = some (1, 1) := by decide
theorem test_shl : after 0x2222 (engine [(2, 195)])
    (fun t => (t.val 2, t.pc)) = some (134, 1) := by decide
theorem test_sub : after 0x3123 (engine [(2, 5), (3, 3)])
    (fun t => (t.val 1, t.pc)) = some (2, 1) := by decide
theorem test_sub_wraps : after 0x3323 (engine [(2, 3), (3, 5)])
    (fun t => (t.val 3, t.pc)) = some (254, 1) := by decide
theorem test_shr_logical : after 0x3122 (engine [(2, 255)])
    (fun t => (t.val 1, t.pc)) = some (127, 1) := by decide
theorem test_add_wraps : after 0x4132 (engine [(3, 200), (2, 100)])
    (fun t => (t.val 1, t.pc)) = some (44, 1) := by decide
theorem test_or : after 0x5132 (engine [(3, 0xF0), (2, 0x3C)])
    (fun t => (t.val 1, t.pc)) = some (252, 1) := by decide
theorem test_and : after 0x6132 (engine [(3, 0xF0), (2, 0x3C)])
    (fun t => (t.val 1, t.pc)) = some (48, 1) := by decide
theorem test_xor : after 0x7132 (engine [(3, 0xF0), (2, 0x3C)])
    (fun t => (t.val 1, t.pc)) = some (204, 1) := by decide
theorem test_ldc : after 0xE180 (engine [])
    (fun t => (t.val 1, t.pc)) = some (128, 1) := by decide
theorem test_push_wraps : after 0x0F11 (engine [(15, 0), (1, 66)])
    (fun t => (t.val 15, t.readMem 255, t.pc)) = some (255, 66, 1) := by decide
theorem test_push_zero : after 0x0122 (engine [(1, 16)] [(15, 9)])
    (fun t => (t.val 1, t.readMem 15, t.pc)) = some (15, 0, 1) := by decide
theorem test_pop_wraps : after 0x1F2F (engine [(15, 255)] [(255, 7)])
    (fun t => (t.val 2, t.val 15, t.readMem 255)) = some (7, 0, 7) := by decide
theorem test_ldx_wraps : after 0x4123 (engine [(2, 200), (3, 100)] [(44, 205)])
    (fun t => (t.val 1, t.pc)) = some (205, 1) := by decide
theorem test_ldx_base : after 0x4223 (engine [(2, 16), (3, 5)] [(21, 171)])
    (fun t => (t.val 2, t.pc)) = some (171, 1) := by decide
theorem test_stx_wraps : after 0x5123 (engine [(1, 90), (2, 200), (3, 100)])
    (fun t => (t.readMem 44, t.pc)) = some (90, 1) := by decide
theorem test_stx_base : after 0x5223 (engine [(2, 16), (3, 5)])
    (fun t => (t.readMem 21, t.val 2)) = some (16, 16) := by decide
theorem test_ldr : after 0xC4FE (engine [] [(254, 51)])
    (fun t => (t.val 4, t.pc)) = some (51, 1) := by decide
theorem test_str : after 0xD4FF (engine [(4, 0)] [(255, 5)])
    (fun t => (t.readMem 255, t.pc)) = some (0, 1) := by decide
theorem test_recall : after 0x1FDD (engine [(15, 240), (13, 2)] [(240, 32)] 64)
    (fun t => (t.pc, t.readMem 240, t.val 15, t.val 13)) = some (32, 65, 243, 65) := by decide
theorem test_recall_wraps : after 0x1FED (engine [(15, 255), (13, 255)] [(255, 5)] 255)
    (fun t => (t.pc, t.readMem 255, t.val 15, t.val 14)) = some (5, 0, 255, 0) := by decide
theorem test_ret : after 0x1DDE (engine [(14, 48)] [] 80)
    (fun t => (t.pc, t.val 13)) = some (48, 81) := by decide
theorem test_ret_same : after 0x1DDD (engine [(13, 48)] [] 80)
    (fun t => (t.pc, t.val 13)) = some (81, 81) := by decide
theorem test_callx : after 0x7123 (engine [(1, 119), (2, 4)] [(21, 96)] 16)
    (fun t => (t.pc, t.val 1)) = some (96, 17) := by decide
theorem test_jz_taken : after 0x8180 (engine [(1, 0)] [] 16)
    (fun t => (t.pc, t.val 1)) = some (128, 0) := by decide
theorem test_jz_not_taken : after 0x8180 (engine [(1, 5)] [] 255)
    (fun t => (t.pc, t.val 1)) = some (0, 5) := by decide
theorem test_jnz_taken : after 0x9180 (engine [(1, 5)] [] 16)
    (fun t => (t.pc, t.val 1)) = some (128, 5) := by decide
theorem test_jnz_not_taken : after 0x9180 (engine [(1, 0)] [] 16)
    (fun t => (t.pc, t.val 1)) = some (17, 0) := by decide
theorem test_calls : after 0xAE80 (engine [(14, 9)] [] 255)
    (fun t => (t.pc, t.val 14)) = some (128, 0) := by decide
theorem test_call : after 0xBF80 (engine [(15, 0)] [] 16)
    (fun t => (t.pc, t.val 15, t.readMem 255)) = some (128, 255, 17) := by decide
theorem test_call_npc_wraps : after 0xBF80 (engine [(15, 1)] [(0, 7)] 255)
    (fun t => (t.pc, t.val 15, t.readMem 0)) = some (128, 0, 0) := by decide

/-- A divisor of 0 leaves both destinations alone; `a == c` with a quotient of 0 faults (D19). -/
theorem test_div_zero :
    after 0x0523 (engine [(2, 100), (5, 11), (6, 22)]) (fun t => (t.val 5, t.val 6, t.pc)) =
        some (11, 22, 1) ∧
      faultOf (step ((engine [(2, 5), (3, 7)]).withFetchWord 16 0x0323)) = some .divAliasZero := by
  decide

/-- With `a == b` both address terms are the link; under the other setting of `CALLX_BASE` the first
is the earlier `x[a]`, and 119 + 4 = 123 (D22). -/
theorem test_callx_terms :
    after 0x7113 (engine [(1, 119)] [(34, 96)] 16) (fun t => (t.pc, t.val 1)) = some (96, 17) ∧
      callxAddr .old 1 2 (engine [(1, 119), (2, 4)]) (engine [(1, 17), (2, 4)]) = 123 := by decide

theorem test_halt : after 0x0333 (engine [(3, 7)] [] 5)
    (fun t => (t.halted, t.exitStatus, t.pc)) = some (true, 7, 6) := by decide

/-- A halted engine takes no step (R18). -/
theorem test_halted :
    nextState (step { engine [] with halted := true }) = some { engine [] with halted := true } := by
  decide

/-- The copy shows `pc = npc` (R123). -/
theorem test_sys0 : after 0xF100 (engine [(1, 9)] [(3, 4)])
    (fun t => (t.dumps.map fun d => (d.pc, d.mem.read 3, d.regs[1]), t.pc)) =
      some ([(1, 4, 9)], 1) := by decide

theorem test_sys1_ok : after 0xFF01 ((engine []).withAnswers [.ok (-1), .fail] [])
    (fun t => (t.val 0, t.val 15, t.intAnswers, t.pc)) = some (1, 255, [.fail], 1) := by decide

/-- Failure leaves `x[a]`; a read whose answer has not come leaves the whole state (R131). -/
theorem test_sys1_fail_or_wait :
    after 0xF101 ((engine [(1, 5), (2, 5)]).withAnswers [.fail] [])
        (fun t => (t.val 2, t.val 1, t.pc)) = some (0, 5, 1) ∧
      nextState (step ((engine []).withFetchWord 16 0xF101)) =
        some ((engine []).withFetchWord 16 0xF101) := by decide

theorem test_sys2 : after 0xF102 (engine [(1, 255)]) (fun t => (t.output, t.pc)) =
    some ([50, 53, 53], 1) := by decide

theorem test_sys2_zero : after 0xF102 (engine []) (fun t => t.output) = some [48] := by decide

theorem test_sys3_ok : after 0xF103 ((engine [(2, 5)]).withAnswers [] [.ok 321])
    (fun t => (t.val 2, t.val 1, t.pc)) = some (1, 65, 1) := by decide

theorem test_sys3_eof : after 0xF103 ((engine [(1, 5), (2, 5)]).withAnswers [] [.eof])
    (fun t => (t.val 2, t.val 1, t.pc)) = some (0, 5, 1) := by decide

theorem test_sys4 : after 0xF104 (engine [(1, 255)]) (fun t => (t.output, t.pc)) =
    some ([255], 1) := by decide

theorem test_sys5 : after 0xF105 (engine [(1, 32)] [(32, 72), (33, 105), (35, 33)])
    (fun t => (t.output, t.pc)) = some ([72, 105], 1) := by decide

theorem test_sys5_end : after 0xF105 (engine [(1, 254)] [(0, 88), (254, 79), (255, 75)])
    (fun t => t.output) = some [79, 75] := by decide

theorem test_sysN : after 0xFFFF (engine [(15, 5)] [] 255) (fun t => (t.pc, t.regs)) =
    some (0, (engine [(15, 5)]).regs) := by decide

/-- A memory write of 0 removes the entry, and the list stays in address order (R23; by hand). -/
theorem test_memory_form :
    ((engine [] [(3, 7), (9, 1)]).writeMem 3 0).mem = [(9, 1)] ∧
      ((engine [] [(9, 1)]).writeMem 4 2).mem = [(4, 2), (9, 1)] := by decide

/-! ### The load image (70_reset_and_hazards.md; 95_test_vectors.md sections 1 and 2.6) -/

theorem test_word_values :
    ["42", "1A", "FF", "PP", "Y", "Z", "0", "255"].map (fun w => wordValue w.toList) =
      [some 42, some 16, some 85, some 255, some 1, some 0, some 0, some 255] := by decide

/-- The letter's own base multiplies what came before it: 1*16 + 0 = 16, then 16*2 + 1 = 33, then
33*8 + 2 = 266 (by hand from R164). -/
theorem test_mixed_word : wordValue "1AYS".toList = some 266 := by decide

theorem test_word_with_foreign_character : wordValue "1a".toList = none := by decide

/-- Two registers, no data, one word before the entry point, which runs at cell 1 (by hand from R162
to R166). -/
def smallImage : List Char := "3 4%%0\n%57602 819 %rest".toList

theorem test_load : load smallImage = .loaded
    { engine [(0, 3), (1, 4)] [] 1 with imem := [(1, 57602), (2, 819)] } "rest".toList := by decide

theorem test_load_overflow :
    load "0 0 0 0 0 0 0 0 0 0 0 0 0 0 0 0 0%%%%".toList = .rejected (.imageRejected .tooManyWords) := by
  decide

theorem test_load_value : load "%256%%%".toList = .rejected (.imageRejected .valueTooLarge) := by
  decide

theorem test_load_character : load "1-%%%%".toList = .rejected (.imageRejected .badCharacter) := by
  decide

theorem test_load_end : load "1%2%3%4".toList = .rejected (.imageRejected .endOfStream) := by decide

/-- A terminator with no digit before it yields no word (D17). -/
theorem test_load_empty : load "%%%%".toList = .loaded State.reset [] := by decide

/-! ### A witness for the hypotheses of each obligation, clause by clause -/

/-- A state with data in registers and memory, the word `w` at `pc`. -/
def ready (w : Nat) (pc : Byte := 255) : State :=
  (engine [(1, 9), (2, 200), (3, 100), (15, 255)] [(44, 205), (255, 7)] pc).withFetchWord 16 w

/-- x = -1, y = 255. -/
theorem witness_ScaleIsTheResidueModulo256 :
    (0 : Int) ≤ 255 ∧ (255 : Int) ≤ 255 ∧ (256 : Int) ∣ -1 - 255 := by decide

/-- The index conditions, at the ends of their ranges. -/
theorem witness_IndicesSelectTheOperation :
    (14 : RegIx) ≠ 15 ∧ ((15 : RegIx) = 15 ∧ (0 : RegIx) ≠ 15) ∧ ((0 : RegIx) = 0 ∧
      (0 : RegIx) = 0) ∧
      ((0 : RegIx) ≠ 15 ∧ (0 : RegIx) ≠ 0 + 1) ∧ (15 : RegIx) ≤ 15 ∧ (0 : RegIx) ≤ 15 ∧
      (14 : RegIx) < 15 ∧ (0 : RegIx) < 1 ∧ 6 ≤ (6 : Byte).toNat ∧ 6 ≤ (255 : Byte).toNat :=
  by decide

theorem witness_DecodingAnEncodingGivesTheInstruction :
    Instr.wf (.callx 15 15 15) = true ∧ Instr.wf (.xor 15 15 14) = true ∧
      Instr.wf (.sysN 15 6) = true := by decide

theorem witness_StepRunsTheDecodedInstruction :
    (ready 0x0123).halted = false ∧
      decode ((ready 0x0123).readImem (ready 0x0123).pc) = .div 1 2 3 := by decide

theorem witness_HaltedEngineChangesNothing :
    State.halted { ready 0x0123 with halted := true } = true := by decide

theorem witness_PlacedWordIsTheNextInstruction :
    16 ≤ 16 ∧ 65535 < 2 ^ 16 ∧ (0 : Byte) ≠ (ready 0).pc := by decide

/-- ADD at address 255. -/
theorem witness_PcIsTheSuccessorUnlessTransferred :
    (ready 0x4132).halted = false ∧ (ready 0x4132).waits = false ∧
      (∃ t, step (ready 0x4132) = .next t) ∧ (decode (ready 0x4132).fetch).transfers = false :=
  ⟨by decide, by decide, ⟨_, rfl⟩, by decide⟩

/-- The dividend is 9, the divisor 100. -/
theorem witness_StepsStopOnlyOnDivAliasZero :
    step (ready 0x0313) = .fault .divAliasZero ∧ (ready 0x0313).halted = false ∧
      decode (ready 0x0313).fetch = .div 3 1 3 ∧ (ready 0x0313).val 3 ≠ 0 ∧
      (ready 0x0313).val 1 < (ready 0x0313).val 3 :=
  ⟨rfl, by decide⟩

theorem witness_HaltSetsTheLatchAndNothingElseDoes :
    ((ready 0x0111).halted = false ∧ decode (ready 0x0111).fetch = .halt 1) ∧
      ((ready 0x4132).halted = false ∧ (∃ t, step (ready 0x4132) = .next t) ∧
        ∀ a, decode (ready 0x4132).fetch ≠ .halt a) :=
  ⟨by decide, by decide, ⟨_, rfl⟩, by decide⟩

theorem witness_InstructionMemoryIsOnlyFetched :
    (∃ t, step (ready 0x4132) = .next t) ∧ (decode (ready 0x4132).fetch).storesData = false ∧
      ∀ a, Instr.stx 1 2 3 ≠ .sys0 a :=
  ⟨⟨_, rfl⟩, by decide, by decide⟩

theorem witness_OutputComesOnlyFromSystemCalls :
    (∃ t, step (ready 0xF104) = .next t ∧ t.output = (ready 0xF104).output ++ [9]) ∧
      ∃ t d, step (ready 0xF100) = .next t ∧ t.dumps = (ready 0xF100).dumps ++ [d] :=
  ⟨⟨_, rfl, rfl⟩, _, _, rfl, rfl⟩

/-- The two states differ. -/
theorem witness_StreamsAndExitStatusAreNotReadable :
    SameEngine (ready 0x4132) { ready 0x4132 with output := [65], exitStatus := 3 } ∧
      (∃ t, step (ready 0x4132) = .next t) ∧
      ∃ t, step { ready 0x4132 with output := [65], exitStatus := 3 } = .next t :=
  ⟨⟨rfl, rfl, rfl, rfl, rfl, rfl, rfl⟩, ⟨_, rfl⟩, _, rfl⟩

/-- The two states differ. -/
theorem witness_OnlyReadsDependOnAnswers :
    SameButAnswers (ready 0x4132) ((ready 0x4132).withAnswers [.fail] [.ok 1]) ∧
      (∀ a, decode (ready 0x4132).fetch ≠ .sys1 a) ∧ ∀ a, decode (ready 0x4132).fetch ≠ .sys3 a :=
  ⟨rfl, by decide, by decide⟩

theorem witness_StepKeepsCanonicalForm :
    (ready 0x5123).wf = true ∧ (∃ t, step (ready 0x5123) = .next t) ∧
      (ready 0xF100).wf = true ∧ ∃ t, step (ready 0xF100) = .next t :=
  ⟨by decide, ⟨_, rfl⟩, by decide, _, rfl⟩

theorem witness_RunsFromAnImageKeepFormAndProgram :
    ∃ s rest t, load smallImage = .loaded s rest ∧
      Host.Core.run Sys2Proof.core 2 (s.withAnswers [.ok 5] []) = .next t ∧ t.halted = true :=
  ⟨_, _, _, rfl, rfl, rfl⟩

/-- The only word is DIV r1, r2, r3. -/
theorem witness_RunsWithoutAliasedDivisionsMeetNoFault :
    ∀ (cell : Byte) (a b : RegIx),
      decode (State.readImem { State.reset with imem := [(0, 0x0123)] } cell) ≠ .div a b a :=
  by
    intro cell a b
    by_cases h : cell = 0
    · subst h; revert a b; decide
    · have e : State.readImem { State.reset with imem := [(0, 0x0123)] } cell = 0 :=
        if_neg fun e => h (BitVec.eq_of_toNat_eq e.symm)
      rw [e]; revert a b; decide

theorem witness_HaltedRunKeepsItsObservation :
    ∃ t, Host.Core.run Sys2Proof.core 1 (ready 0x0111) = .next t ∧ t.halted = true :=
  ⟨_, rfl, rfl⟩

theorem witness_AddAndSubWrap :
    ((2 : RegIx) < 3 ∧ (14 : RegIx) < 15) ∧ (2 : RegIx) ≠ 3 := by decide

theorem witness_BitwiseOperations :
    (0 : RegIx) < 1 ∧ (14 : RegIx) < 15 := by decide

theorem witness_CompareLessThan :
    (1 : RegIx) ≠ 2 ∧ (ready 0).val 1 < (ready 0).val 2 ∧ (ready 0).val 2 ≤ (ready 0).val 2 ∧
      (ready 0).val 1 ≤ (ready 0).val 2 := by decide

/-- A zero divisor; plain, with a = 15; a = b; a = c with a quotient; a = c without. -/
theorem witness_DivideWritesQuotientAndRemainder :
    ((2 : RegIx) ≠ 0 ∧ (ready 0).val 0 = 0) ∧
      ((2 : RegIx) ≠ 3 ∧ (ready 0).val 3 ≠ 0 ∧ (15 : RegIx) ≠ 2 ∧ (15 : RegIx) ≠ 3) ∧
      ((2 : RegIx) ≠ 3 ∧ (ready 0).val 3 ≠ 0 ∧ (2 : RegIx) = 2 ∧ (2 : RegIx) ≠ 3) ∧
      ((2 : RegIx) ≠ 3 ∧ (ready 0).val 3 ≠ 0 ∧ (3 : RegIx) = 3 ∧
      (ready 0).val 3 ≤ (ready 0).val 2) ∧
      ((1 : RegIx) ≠ 3 ∧ (ready 0).val 3 ≠ 0 ∧ (3 : RegIx) = 3 ∧
      (ready 0).val 1 < (ready 0).val 3) :=
  by decide

theorem witness_MultiplyWritesTheProductPair :
    (2 : RegIx) ≤ 3 ∧ ((15 : RegIx) + 1 ≠ 2 ∧ (15 : RegIx) + 1 ≠ 3) ∧
      ((1 : RegIx) + 1 = 2 ∧ (1 : RegIx) + 1 ≠ 3) ∧ ((2 : RegIx) + 1 = 3 ∧ (2 : RegIx) + 1 ≠ 2) ∧
      ((15 : RegIx) + 1 = 0 ∧ (0 : RegIx) ≤ 0) := by decide

/-- The stack pointer wraps. -/
theorem witness_PushStoresBelowTheStackPointer :
    (0 : RegIx) ≠ 2 ∧ (255 : Byte) = ((ready 0).advance.preDecrement 0).reg 0 := by decide

theorem witness_PopLoadsAtTheStackPointer :
    (15 : RegIx) ≠ 2 ∧ (15 : RegIx) ≠ 0 ∧ (ready 0).reg 15 = 255 := by decide

/-- The sums are 300 and 400. -/
theorem witness_IndexedLoad :
    (2 : RegIx) ≤ 3 ∧ (44 : Byte).toNat = ((ready 0).val 2 + (ready 0).val 3) % 256 ∧
      (2 : RegIx) ≤ 2 ∧ (144 : Byte).toNat = ((ready 0).val 2 + (ready 0).val 2) % 256 := by decide

theorem witness_StoresWriteOneCell :
    (2 : RegIx) ≤ 3 ∧ (44 : Byte) = indexedAddr ((ready 0).reg 2) ((ready 0).reg 3) := by decide

theorem witness_RecallSwapsPcWithTheStackCell :
    ((15 : RegIx) ≠ 14 ∧ (15 : RegIx) ≠ 13) ∧ ((15 : RegIx) ≠ 3 ∧ (15 : RegIx) ≠ 3) := by decide

theorem witness_ReturnLinksAndJumps :
    (0 : RegIx) ≠ 15 ∧ (15 : RegIx) = 15 := by decide

theorem witness_IndexedCallTakesItsTargetFromData :
    (2 : RegIx) ≤ 2 ∧
      ((1 : RegIx) ≠ 2 ∧ (200 : Byte).toNat = ((ready 0).npc.toNat + (ready 0).val 2) % 256) ∧
      ((2 : RegIx) = 2 ∧ (0 : Byte).toNat = 2 * (ready 0).npc.toNat % 256) := by decide

theorem witness_ConditionalJumps :
    (ready 0).val 0 = 0 ∧ (ready 0).val 15 ≠ 0 := by decide

theorem witness_StackCallPushesTheReturnAddress :
    (255 : Byte) = ((ready 0).advance.preDecrement 0).reg 0 := by decide

theorem witness_CallThenRecallReturns :
    (15 : RegIx) ≠ 14 ∧ (15 : RegIx) ≠ 13 := by decide

theorem witness_SubroutineCallThenReturnReturns :
    (0 : RegIx) ≠ 15 := by decide

theorem witness_ReadIntegerReportsInTheNextRegister :
    ((ready 0).withAnswers [.ok (-257)] []).intAnswers = .ok (-257) :: [] ∧
      ((ready 0).withAnswers [.fail, .ok 3] []).intAnswers = .fail :: [.ok 3] := by decide

theorem witness_ReadCharacterReportsInTheNextRegister :
    ((ready 0).withAnswers [] [.ok 256]).charAnswers = .ok 256 :: [] ∧
      ((ready 0).withAnswers [] [.eof, .ok 3]).charAnswers = .eof :: [.ok 3] := by decide

theorem witness_ReadsWaitForTheirAnswer :
    (ready 0).intAnswers = [] ∧ (ready 0).charAnswers = [] := by decide

theorem witness_OtherSelectorsDoNothing :
    6 ≤ (6 : Byte).toNat ∧ 6 ≤ (255 : Byte).toNat := by decide

theorem witness_NumeralTable :
    digit 'Z' ≠ none ∧ digit '0' ≠ none ∧ 9 < 10 ∧ 15 < 16 ∧ 7 < 8 := by decide

theorem witness_WordValueShiftsByEachDigitsBase :
    (digit '1' = some ⟨1, 10⟩ ∧ ['A', 'Y'].map digit = ([⟨0, 16⟩, ⟨1, 2⟩] : List Digit).map some) ∧
      ∃ ch ∈ ['1', 'a'], digit ch = none :=
  ⟨by decide, _, List.mem_cons_of_mem _ (List.mem_singleton_self _), by decide⟩

theorem witness_SectionsAreCutAtWhitespaceAndTerminators :
    wordValue ['P', 'P'] = some 255 ∧ isWhitespace '\n' = true ∧
      parseSection none ['7', ' ', '%', 'x'] = .ok ([7], ['x']) :=
  ⟨by decide, by decide, rfl⟩

theorem witness_LoadPlacesTheWords :
    ∃ x rest s rest', parseImage smallImage = .ok (x, rest) ∧ load smallImage = .loaded s rest' :=
  ⟨_, _, _, _, rfl, rfl⟩

theorem witness_LoadRefusesWhatDoesNotFit :
    (∃ x rest s, parseImage smallImage = .ok (x, rest) ∧ load smallImage = .loaded s rest) ∧
      ∃ x rest, parseImage "%256%%%".toList = .ok (x, rest) ∧
        ¬ ∃ s, load "%256%%%".toList = .loaded s rest :=
  ⟨⟨_, _, _, rfl, rfl⟩, _, _, rfl, fun ⟨_, h⟩ => by cases h⟩

theorem witness_LoadRefusesMalformedImages :
    ['%', '%', '%'].count '%' < 4 ∧ digit '-' = none ∧ isWhitespace '-' = false ∧ '-' ≠ '%' :=
  by decide

theorem witness_LoadedStatesHaveCanonicalForm :
    ∃ s rest, load smallImage = .loaded s rest :=
  ⟨_, _, rfl⟩

/-- The dump of a state with an empty third section. -/
def smallDump : Dump := ⟨Vector.replicate 16 0, [(1, 5)], [(0, 819)], 0⟩

/-- Sixteen zero registers, separated by line breaks. -/
def zeros : List Char := (List.replicate 15 ['0', '\n']).flatten ++ ['0']

set_option maxRecDepth 4000 in
/-- Two texts: with no least number of words and as few line breaks as can be, and with three data words and
one word of the fourth section at least and more line breaks than are needed (log entry 24). -/
theorem witness_DumpReloadsToTheStateItWasTakenFrom :
    smallDump.wf = true ∧
      smallDump.renderedBy ⟨0, 0⟩ (zeros ++ ['%', '0', '\n', '5', '%', '%', 'A', 'D', 'D', 'D', '%']) ∧
      smallDump.renderedBy ⟨3, 1⟩ ('\n' :: zeros ++ ['\n', '%', '\n', '0', '\n', '5', '\n', 'Z', '\n',
        '%', '\n', '%', '\n', '8', '1', '9', '\n', '%', '\n']) :=
  ⟨by decide, ⟨by simp [zeros, isWhitespace, lineBreak], _, rfl, by simp⟩,
    by simp [zeros, isWhitespace, lineBreak], _, rfl, by simp [lineBreak]⟩

theorem witness_EveryDumpHasARendering :
    ∃ text, smallDump.renderedBy ⟨0, 0⟩ text :=
  ⟨_, witness_DumpReloadsToTheStateItWasTakenFrom.2.1⟩

theorem witness_DumpTextHasAllRegistersAndAsManyWordsAsPc :
    ∃ text x rest, smallDump.renderedBy ⟨0, 0⟩ text ∧ parseImage text = .ok (x, rest) :=
  let h := witness_DumpReloadsToTheStateItWasTakenFrom.2.1
  ⟨_, _, _, h, h.2.choose_spec.1⟩

/-- Values are separated by line breaks, not by spaces (R130). -/
theorem test_dump_text_without_spaces :
    ¬ smallDump.renderedBy ⟨0, 0⟩ (zeros ++ "%0 5%%ADDD%".toList) :=
  fun h => absurd (h.1 ' ') (by decide)

/-- Zero registers are printed too (95_test_vectors.md S8). -/
theorem test_dump_of_zero_registers :
    (State.reset.snapshot.sections ⟨0, 0⟩).registers = List.replicate 16 0 := by decide

end Sys2Proof.Tests
end

/-! SUPPORT. `scale` as the residue of an integer modulo 256 (00_scope.md R5). -/

namespace Sys2Proof.Machine

/-- `scale_toNat` read as an integer: the remainder is not negative, so nothing is cut off. -/
theorem scale_toNat_cast (x : Int) : ((scale x).toNat : Int) = x % 256 := by
  rw [scale_toNat, Int.toNat_of_nonneg (Int.emod_nonneg x (by decide))]

/-- A byte is a value of R5's range already, so `scale` keeps it. -/
theorem scale_byte (b : Byte) : scale (b.toNat : Int) = b :=
  BitVec.eq_of_toNat_eq (scale_toNat_of_lt b.isLt)

/-- The uniqueness of R5: a value in [0, 255] congruent to `x` modulo 256 is the remainder of `x`. -/
theorem eq_emod_of_congruent {x y : Int} (h0 : 0 ≤ y) (h255 : y ≤ 255) (hxy : (256 : Int) ∣ x - y) :
    y = x % 256 := by
  have hmod : y % 256 = x % 256 := Int.modEq_iff_dvd.mpr hxy
  rw [← hmod, Int.emod_eq_of_lt h0 (by omega)]

/-- Settles O1: `scale x` is `x % 256`, whose range, congruence and uniqueness are those of the remainder. -/
theorem scaleIsTheResidueModulo256 : Obligations.ScaleIsTheResidueModulo256 := by
  intro x
  refine ⟨?range, ?upper, ?congruent, ?unique, ?floored, scale_byte (scale x)⟩ <;>
    rw [scale_toNat_cast]
  case range => exact Int.emod_nonneg x (by decide)
  case upper => exact Int.le_of_lt_add_one (Int.emod_lt_of_pos x (by decide))
  case congruent => exact Int.dvd_self_sub_emod
  case unique => exact fun y => eq_emod_of_congruent
  case floored => exact Int.emod_def x 256

end Sys2Proof.Machine

/-! SUPPORT. What an executed instruction does besides computing registers and `pc`, said once
(`exec_effect`), and that an instruction other than the dump carries instruction memory along unread
(`exec_withImem`) (20_memory.md R41). -/

namespace Sys2Proof.Machine

/-! ### The meanings that branch -/

theorem execJz_eq (a : RegIx) (imm : Byte) (s : State) :
    execJz a imm s = .next (s.advance.setPc (if s.val a = 0 then imm else s.npc)) := by
  unfold execJz; split <;> rfl

theorem execJnz_eq (a : RegIx) (imm : Byte) (s : State) :
    execJnz a imm s = .next (s.advance.setPc (if s.val a ≠ 0 then imm else s.npc)) := by
  unfold execJnz; split <;> rfl

/-- DIV writes registers and advances `pc`, where it answers a state (R70). -/
theorem execDiv_frame {a b c : RegIx} {s t : State} (h : execDiv a b c s = .next t) :
    t = { s with regs := t.regs, pc := s.npc } := by
  unfold execDiv at h
  split at h
  · cases h; rfl
  · dsimp only at h
    split at h <;> cases h
    rfl

/-- A read of an integer waits while there is no answer (R131). -/
theorem execSys1_of_nil {s : State} (h : s.intAnswers = []) (a : RegIx) :
    execSys1 a s = .next s := by
  simp [execSys1, readInt_eq_none.mpr h, waiting]

/-- A read of an integer takes the next answer and reports it (R124). -/
theorem execSys1_of_cons {s : State} {r : IntAnswer} {rest : List IntAnswer}
    (h : s.intAnswers = r :: rest) (a : RegIx) :
    execSys1 a s = .next ({ s with intAnswers := rest }.advance.reportRead a r.value) := by
  simp [execSys1, State.readInt, h]

/-- A read of a character waits while there is no answer (R131). -/
theorem execSys3_of_nil {s : State} (h : s.charAnswers = []) (a : RegIx) :
    execSys3 a s = .next s := by
  simp [execSys3, readChar_eq_none.mpr h, waiting]

/-- A read of a character takes the next answer and reports it (R126). -/
theorem execSys3_of_cons {s : State} {r : CharAnswer} {rest : List CharAnswer}
    (h : s.charAnswers = r :: rest) (a : RegIx) :
    execSys3 a s = .next ({ s with charAnswers := rest }.advance.reportRead a r.value) := by
  simp [execSys3, State.readChar, h]

/-! ### What an instruction can do -/

/-- The state `t` is one that instruction `i` may leave behind `s`: `s` with registers and `pc` as computed,
and besides them at most the one change of the case, which only the instructions it names make. -/
inductive ExecEffect (i : Instr) (s : State) : State → Prop
  | computes (regs : Vector Byte 16) (pc : Byte) : ExecEffect i s { s with regs := regs, pc := pc }
  | stores (hi : i.storesData = true) (regs : Vector Byte 16) (pc addr v : Byte) :
      ExecEffect i s { s.writeMem addr v with regs := regs, pc := pc }
  | halts (a : RegIx) (hi : i = .halt a) : ExecEffect i s (s.advance.halt (s.reg a))
  | dumps (a : RegIx) (hi : i = .sys0 a) : ExecEffect i s s.advance.dump
  | readsInt (a : RegIx) (hi : i = .sys1 a) (r : IntAnswer) (rest : List IntAnswer)
      (hq : s.intAnswers = r :: rest) (regs : Vector Byte 16) :
      ExecEffect i s { s with regs := regs, pc := s.npc, intAnswers := rest }
  | readsChar (a : RegIx) (hi : i = .sys3 a) (r : CharAnswer) (rest : List CharAnswer)
      (hq : s.charAnswers = r :: rest) (regs : Vector Byte 16) :
      ExecEffect i s { s with regs := regs, pc := s.npc, charAnswers := rest }
  | emits (a : RegIx) (hi : i = .sys2 a ∨ i = .sys4 a ∨ i = .sys5 a) (codes : List Byte) :
      ExecEffect i s (s.advance.emit codes)

/-- Every instruction that answers a state does one of these. -/
theorem exec_effect {i : Instr} {s t : State} (h : exec i s = .next t) : ExecEffect i s t := by
  cases i with
  | push | recallBump | stx | call | str => cases h; exact .stores rfl _ _ _ _
  | halt a => cases h; exact .halts a rfl
  | sys0 a => cases h; exact .dumps a rfl
  | sys2 a => cases h; exact .emits a (.inl rfl) _
  | sys4 a => cases h; exact .emits a (.inr (.inl rfl)) _
  | sys5 a => cases h; exact .emits a (.inr (.inr rfl)) _
  | sys1 a =>
    change execSys1 a s = _ at h
    cases hq : s.intAnswers with
    | nil => rw [execSys1_of_nil hq] at h; cases h; exact .computes _ _
    | cons r rest =>
      rw [execSys1_of_cons hq, reportRead_frame] at h; cases h
      exact .readsInt a rfl r rest hq _
  | sys3 a =>
    change execSys3 a s = _ at h
    cases hq : s.charAnswers with
    | nil => rw [execSys3_of_nil hq] at h; cases h; exact .computes _ _
    | cons r rest =>
      rw [execSys3_of_cons hq, reportRead_frame] at h; cases h
      exact .readsChar a rfl r rest hq _
  | div a b c => rw [execDiv_frame h]; exact .computes _ _
  | jz a imm => cases (execJz_eq a imm s).symm.trans h; exact .computes _ _
  | jnz a imm => cases (execJnz_eq a imm s).symm.trans h; exact .computes _ _
  | _ => cases h; exact .computes _ _

/-- A step does what its instruction can do; a halted one changes nothing (R18). -/
theorem step_effect {s t : State} (h : step s = .next t) : ExecEffect (decode s.fetch) s t := by
  unfold step at h
  split at h
  · cases h; exact .computes _ _
  · exact exec_effect h

/-- No instruction writes instruction memory (R41). -/
theorem ExecEffect.imem_eq {i : Instr} {s t : State} (h : ExecEffect i s t) : t.imem = s.imem := by
  cases h <;> rfl

/-- Only the five stores write data memory (R41). -/
theorem ExecEffect.mem_eq {i : Instr} {s t : State} (h : ExecEffect i s t)
    (hi : i.storesData = false) : t.mem = s.mem := by
  cases h with
  | stores hs => rw [hi] at hs; cases hs
  | _ => rfl

/-! ### Independence of instruction memory -/

/-- The state with another instruction memory. -/
def State.withImem (s : State) (m : Memory 16) : State := { s with imem := m }

theorem reportRead_withImem (s : State) (m : Memory 16) (a : RegIx) (v : Option Int) :
    (s.withImem m).reportRead a v = (s.reportRead a v).withImem m := by
  cases v <;> rfl

/-- Outcomes that branch on one condition are related if their branches are. -/
theorem OutcomesRelated.ite {R : State → State → Prop} {p : Prop} [Decidable p] {x x' y y' : Result}
    (hx : OutcomesRelated R x x') (hy : OutcomesRelated R y y') :
    OutcomesRelated R (if p then x else y) (if p then x' else y') := by
  split
  · exact hx
  · exact hy

/-- What an instruction other than the dump does is the same whatever instruction memory holds (R41). -/
theorem exec_withImem (i : Instr) (s : State) (m : Memory 16) (hi : ∀ a, i ≠ .sys0 a) :
    OutcomesRelated (fun t t' => t' = t.withImem m) (exec i s) (exec i (s.withImem m)) := by
  cases i with
  | sys0 a => exact absurd rfl (hi a)
  | div a b c => exact .ite rfl (.ite rfl rfl)
  | jz a imm =>
    change OutcomesRelated _ (execJz a imm s) (execJz a imm _)
    rw [execJz_eq, execJz_eq]; rfl
  | jnz a imm =>
    change OutcomesRelated _ (execJnz a imm s) (execJnz a imm _)
    rw [execJnz_eq, execJnz_eq]; rfl
  | sys1 a =>
    change OutcomesRelated _ (execSys1 a s) (execSys1 a _)
    cases hq : s.intAnswers with
    | nil => rw [execSys1_of_nil hq, execSys1_of_nil (s := s.withImem m) hq]; rfl
    | cons r rest =>
      rw [execSys1_of_cons hq, execSys1_of_cons (s := s.withImem m) hq]
      exact reportRead_withImem { s with intAnswers := rest }.advance m a _
  | sys3 a =>
    change OutcomesRelated _ (execSys3 a s) (execSys3 a _)
    cases hq : s.charAnswers with
    | nil => rw [execSys3_of_nil hq, execSys3_of_nil (s := s.withImem m) hq]; rfl
    | cons r rest =>
      rw [execSys3_of_cons hq, execSys3_of_cons (s := s.withImem m) hq]
      exact reportRead_withImem { s with charAnswers := rest }.advance m a _
  | _ => exact rfl

/-- Settles O12: of what a step can do nothing writes instruction memory and only the case of a store
writes data memory; and every meaning but the dump's carries instruction memory along unread. -/
theorem instructionMemoryIsOnlyFetched : Obligations.InstructionMemoryIsOnlyFetched := by
  refine ⟨fun s t h a => ?_, fun s t h hi a => ?_, exec_withImem⟩
  · rw [State.readImem, (step_effect h).imem_eq, State.readImem]
  · rw [State.readMem, (step_effect h).mem_eq hi, State.readMem]

end Sys2Proof.Machine

/-! SUPPORT. Every word has the field form of R51, and what `decode` makes of a word given by its fields:
one equation for each selection rule (30_encoding.md R54 to R60). -/

namespace Sys2Proof

/-! ### The field form of a word (R51, R52) -/

/-- The opcode field of a word is below 16. -/
theorem fieldOpcode_lt (w : Word) : (fieldOpcode w).toNat < 16 := (fieldOpcode w).isLt

/-- A word is the word of format ABC of its own fields. -/
theorem wordABC_fields (w : Word) :
    wordABC (fieldOpcode w).toNat (fieldA w) (fieldB w) (fieldC w) = w := by
  have := w.isLt
  apply BitVec.eq_of_toNat_eq
  rw [wordABC_toNat (fieldOpcode_lt w), fieldOpcode_toNat, fieldA_val, fieldB_val, fieldC_val]
  omega

/-- A word is the word of format AI of its own fields. -/
theorem wordAI_fields (w : Word) :
    wordAI (fieldOpcode w).toNat (fieldA w) (fieldImm w) = w := by
  have := w.isLt
  apply BitVec.eq_of_toNat_eq
  rw [wordAI_toNat (fieldOpcode_lt w), fieldOpcode_toNat, fieldA_val, fieldImm_toNat]
  omega

/-! ### Decoding a word given by its fields (R54) -/

/-- The opcode field, as the value `select` reads. -/
theorem fieldOpcode_eq_ofNat {w : Word} {op : Nat} (h : (fieldOpcode w).toNat = op) :
    fieldOpcode w = BitVec.ofNat 4 op := by
  rw [← h, BitVec.ofNat_toNat, BitVec.setWidth_eq]

/-- A word of format ABC is selected by its opcode and its three indices. -/
theorem decode_wordABC {op : Nat} (h : op < 16) (a b c : RegIx) :
    decode (wordABC op a b c) =
      select (BitVec.ofNat 4 op) a b c (fieldImm (wordABC op a b c)) := by
  rw [decode, fieldOpcode_eq_ofNat (fieldOpcode_wordABC h a b c), fieldA_wordABC h,
    fieldB_wordABC h, fieldC_wordABC h]

/-- A word of format AI is selected by its opcode, its index a and its immediate. -/
theorem decode_wordAI {op : Nat} (h : op < 16) (a : RegIx) (imm : Byte) :
    decode (wordAI op a imm) =
      select (BitVec.ofNat 4 op) a (fieldB (wordAI op a imm)) (fieldC (wordAI op a imm)) imm := by
  rw [decode, fieldOpcode_eq_ofNat (fieldOpcode_wordAI h a imm), fieldA_wordAI h, fieldImm_wordAI h]

section Opcodes
variable (a b c : RegIx) (imm : Byte)

/-! R55, R56 -/

theorem decode_opcode0 : decode (wordABC 0 a b c) = selectOpcode0 a b c :=
  decode_wordABC (by decide) a b c

theorem decode_opcode1 : decode (wordABC 1 a b c) = selectOpcode1 a b c :=
  decode_wordABC (by decide) a b c

/-! R57 -/

theorem decode_opcode2 : decode (wordABC 2 a b c) = if b ≠ c then .clt a b c else .shl a b :=
  decode_wordABC (by decide) a b c

theorem decode_opcode3 : decode (wordABC 3 a b c) = if b ≠ c then .sub a b c else .shr a b :=
  decode_wordABC (by decide) a b c

/-! R58 -/

theorem decode_opcode4 : decode (wordABC 4 a b c) = if b ≤ c then .ldx a b c else .add a b c :=
  decode_wordABC (by decide) a b c

theorem decode_opcode5 : decode (wordABC 5 a b c) = if b ≤ c then .stx a b c else .or a b c :=
  decode_wordABC (by decide) a b c

theorem decode_opcode6 : decode (wordABC 6 a b c) = if b ≤ c then .mul a b c else .and a b c :=
  decode_wordABC (by decide) a b c

theorem decode_opcode7 : decode (wordABC 7 a b c) = if b ≤ c then .callx a b c else .xor a b c :=
  decode_wordABC (by decide) a b c

/-! R60 -/

theorem decode_opcode15 : decode (wordAI 15 a imm) = selectSystemCall a imm :=
  decode_wordAI (by decide) a imm

end Opcodes

/-- A selector past the six system calls (R60). -/
theorem selectSystemCall_of_six_le (a : RegIx) {imm : Byte} (h : 6 ≤ imm.toNat) :
    selectSystemCall a imm = .sysN a imm := by
  unfold selectSystemCall
  split
  case h_7 => rfl
  all_goals omega

/-! ### The selection table -/

/-- Settles O3: a word is its own fields put together, and the equation of each opcode, read under the
table's conditions, is the table's operation. Opcodes 8 to 14 select by the opcode alone (R59). -/
theorem indicesSelectTheOperation : Obligations.IndicesSelectTheOperation := by
  refine ⟨fun w => ⟨_, fieldOpcode_lt w, fieldA w, fieldB w, fieldC w, fieldImm w,
    (wordABC_fields w).symm, (wordAI_fields w).symm, fieldImm_eq w⟩, fun a b c imm => ?_⟩
  simp only [decode_opcode0, decode_opcode1, decode_opcode2, decode_opcode3, decode_opcode4,
    decode_opcode5, decode_opcode6, decode_opcode7, decode_opcode15]
  refine ⟨?div, ?push, ?halt, ?recallBump, ?pop, ?ret, ?clt, ?shl, ?sub, ?shr, ?ldx, ?add, ?stx, ?or,
    ?mul, ?and, ?callx, ?xor, ?jz, ?jnz, ?calls, ?call, ?ldr, ?str, ?ldc,
    rfl, rfl, rfl, rfl, rfl, rfl, selectSystemCall_of_six_le a⟩
  case push => exact fun hbc hab => (if_neg (not_not_intro hbc)).trans (if_pos hab)
  case halt => exact fun hab hbc => (if_neg (not_not_intro hbc)).trans (if_neg (not_not_intro hab))
  case recallBump => exact fun hab hac => (if_neg hab).trans (if_neg hac)
  case pop => exact fun hab hac => (if_neg hab).trans (if_pos hac)
  case div | ret | clt | sub | ldx | stx | mul | callx => exact fun h => if_pos h
  case shl | shr => exact fun hbc => if_neg (not_not_intro hbc)
  case add | or | and | xor => exact fun hcb => if_neg (not_le.mpr hcb)
  case jz | jnz | calls | call | ldr | str | ldc => exact decode_wordAI (by decide) a imm

end Sys2Proof

/-! SUPPORT. What is unchanged by an instruction that writes registers, `pc` or data memory, and the rule
for an instruction that writes one register and advances `pc` (`setsRegister_of_exec_eq`), with the shifts,
CLT and LDC as its instances (40_arithmetic_logic.md R72, R73, R75, R80). -/

namespace Sys2Proof.Machine

/-! ### Frames -/

/-- Registers, `pc` and data memory are no part of what `MachineKept` speaks of. -/
theorem machineKept_regs_pc_mem (s : State) (regs : Vector Byte 16) (pc : Byte) (mem : Memory 8) :
    MachineKept s { s with regs := regs, pc := pc, mem := mem } :=
  ⟨fun _ => rfl, ⟨rfl, rfl⟩, ⟨rfl, rfl⟩, ⟨rfl, rfl⟩⟩

/-- A write to one register keeps the others. -/
theorem regsKeptBut_advance_setReg (s : State) (a : RegIx) (v : Byte) :
    RegsKeptBut s (s.advance.setReg a v) [a] :=
  fun _ hr => State.reg_setReg_ne _ (List.ne_of_not_mem_cons hr) v

/-- The rule of the instructions that write one register and advance `pc`. -/
theorem setsRegister_of_exec_eq {i : Instr} {s : State} {a : RegIx} {v : Byte} {n : Nat}
    (h : exec i s = .next (s.advance.setReg a v)) (hv : v.toNat = n) : SetsRegister i s a n :=
  ⟨_, h, (State.val_setReg_same _ a v).trans hv, rfl, regsKeptBut_advance_setReg s a v,
    fun _ => rfl, machineKept_regs_pc_mem s _ _ _⟩

/-! ### What the instructions answer -/

section OneRegister
variable (a b c : RegIx) (s : State)

/-- SHL writes `scale (x[b] * 2)` (R73). -/
theorem exec_shl : exec (.shl a b) s = .next (s.advance.setReg a (scale (s.val b * 2))) := rfl

/-- SHR writes `scale (x[b] / 2)` (R75). -/
theorem exec_shr : exec (.shr a b) s = .next (s.advance.setReg a (scale (s.val b / 2))) := rfl

/-- CLT writes the flag of the comparison (R72). -/
theorem exec_clt :
    exec (.clt a b c) s = .next (s.advance.setReg a (flagByte (s.val b < s.val c))) := rfl

/-- LDC writes its immediate (R80). -/
theorem exec_ldc (imm : Byte) : exec (.ldc a imm) s = .next (s.advance.setReg a imm) := rfl

/-! ### The shifts -/

/-- The shift left doubles, modulo 256. -/
theorem setsRegister_shl : SetsRegister (.shl a b) s a (2 * s.val b % 256) := by
  refine setsRegister_of_exec_eq (exec_shl a b s) ?_
  rw [scale_toNat]
  omega

/-- The shift right halves; the half of a byte is a byte, so `scale` keeps it. -/
theorem setsRegister_shr : SetsRegister (.shr a b) s a (s.val b / 2) :=
  have hhalf : s.val b / 2 < 256 := Nat.lt_of_le_of_lt (Nat.div_le_self _ _) (s.val_lt b)
  setsRegister_of_exec_eq (exec_shr a b s) (scale_toNat_of_lt hhalf)

/-! ### The comparison -/

/-- CLT writes the value of its flag. -/
theorem setsRegister_clt :
    SetsRegister (.clt a b c) s a (flagByte (s.val b < s.val c)).toNat :=
  setsRegister_of_exec_eq (exec_clt a b c s) rfl

end OneRegister

/-! ### The obligations -/

/-- Settles O23: opcodes 2 and 3 with b repeated select the shifts (R57), which write twice and half the
old value. -/
theorem shiftsByOne : Obligations.ShiftsByOne := by
  intro s a b
  have hrepeated : ¬ b ≠ b := not_not_intro rfl
  exact ⟨(decode_opcode2 a b b).trans (if_neg hrepeated), (decode_opcode3 a b b).trans (if_neg hrepeated),
    setsRegister_shl a b s, setsRegister_shr a b s⟩

/-- Settles O25: the flag CLT writes is that of the comparison of the old values, read in each case. -/
theorem compareLessThan : Obligations.CompareLessThan := by
  intro s a b c
  refine ⟨fun hbc => (decode_opcode2 a b c).trans (if_pos hbc), fun hlt => ?less, fun hle => ?notLess⟩
  case less => simpa [hlt, flagByte] using setsRegister_clt a b c s
  case notLess => simpa [Nat.not_lt.mpr hle, flagByte] using setsRegister_clt a b c s

/-- Settles O26: opcode 14 selects LDC by the opcode alone (R59), and LDC writes its immediate. -/
theorem loadConstant : Obligations.LoadConstant := by
  intro s a imm
  exact ⟨decode_wordAI (by decide) a imm, setsRegister_of_exec_eq (exec_ldc a s imm) rfl⟩

end Sys2Proof.Machine

/-! SUPPORT. The load, store and stack instructions: the rule for an instruction that stores one data cell
and advances `pc` (`storesCell_of_exec_eq`), and what PUSH and POP each do, in a form that composes
(41_load_store_stack.md R90, R91, R93 to R95). -/

namespace Sys2Proof.Machine

/-! ### The absolute load and the stores -/

section OneCell
variable (a b c : RegIx) (imm : Byte) (s : State)

/-- LDR writes the cell at its immediate (R94). -/
theorem exec_ldr : exec (.ldr a imm) s = .next (s.advance.setReg a (s.readMem imm)) := rfl

/-- STX stores at the indexed address (R93). -/
theorem exec_stx :
    exec (.stx a b c) s = .next (s.advance.writeMem (indexedAddr (s.reg b) (s.reg c)) (s.reg a)) := rfl

/-- STR stores at its immediate (R95). -/
theorem exec_str : exec (.str a imm) s = .next (s.advance.writeMem imm (s.reg a)) := rfl

end OneCell

/-- The rule of the instructions that store one data cell and advance `pc`. -/
theorem storesCell_of_exec_eq {i : Instr} {s : State} {addr v : Byte}
    (h : exec i s = .next (s.advance.writeMem addr v)) : StoresCell i s addr v :=
  ⟨_, h, State.readMem_writeMem_same _ addr v, rfl, fun _ ha => State.readMem_writeMem_ne _ ha v,
    fun _ _ => rfl, machineKept_regs_pc_mem s _ _ _⟩

/-- Settles O32: opcode 12 selects LDR by the opcode alone (R59), and LDR writes the cell read. -/
theorem absoluteLoad : Obligations.AbsoluteLoad := by
  intro s a imm
  exact ⟨decode_wordAI (by decide) a imm, setsRegister_of_exec_eq (exec_ldr a imm s) rfl⟩

/-- Settles O33: opcode 5 selects STX where b ≤ c (R58) and opcode 13 STR (R59); each stores one cell. -/
theorem storesWriteOneCell : Obligations.StoresWriteOneCell := by
  refine ⟨fun s a b c => ⟨fun hbc => (decode_opcode5 a b c).trans (if_pos hbc), ?stx⟩,
    fun s a imm => ⟨decode_wordAI (by decide) a imm, storesCell_of_exec_eq (exec_str a imm s)⟩⟩
  case stx =>
    rintro _ rfl
    exact ⟨indexedAddr_toNat _ _, storesCell_of_exec_eq (exec_stx a b c s)⟩

/-! ### The stack -/

/-- A register whose value is the same in two states holds the same byte in them. -/
theorem reg_eq_of_val_eq {s t : State} {a : RegIx} (h : t.val a = s.val a) : t.reg a = s.reg a :=
  BitVec.eq_of_toNat_eq h

/-- From `s` to `t` the value `v` is pushed on the stack of `x[a]`: the pointer is lowered by 1, the cell
it then points at holds `v`, and besides `pc` nothing else is changed (R90). -/
structure Pushes (a : RegIx) (v : Byte) (s t : State) : Prop where
  pointer : t.val a = (s.val a + 255) % 256
  top : t.readMem (t.reg a) = v
  pc : t.pc = s.npc
  regs : RegsKeptBut s t [a]
  data : DataKeptBut s t (t.reg a)
  machine : MachineKept s t

/-- From `s` to `t` the top of the stack of `x[a]` is popped into `x[b]`: `x[b]` holds the cell pointed at,
the pointer is raised by 1, and besides `pc` nothing else is changed (R91). -/
structure Pops (a b : RegIx) (s t : State) : Prop where
  loaded : t.reg b = s.readMem (s.reg a)
  pointer : t.val a = (s.val a + 1) % 256
  pc : t.pc = s.npc
  regs : RegsKeptBut s t [a, b]
  data : DataKept s t
  machine : MachineKept s t

section Stack
variable {a b d : RegIx} (s : State)

/-- Opcode 0 with b repeated selects PUSH where a ≠ b (R55). -/
theorem decode_push (hab : a ≠ b) : decode (wordABC 0 a b b) = .push a b :=
  (decode_opcode0 a b b).trans ((if_neg (not_not_intro rfl)).trans (if_pos hab))

/-- Opcode 1 with a repeated selects POP where a ≠ b (R56). -/
theorem decode_pop (hab : a ≠ b) : decode (wordABC 1 a b a) = .pop a b :=
  (decode_opcode1 a b a).trans ((if_neg hab).trans (if_pos rfl))

/-- PUSH pushes the old `x[b]`, which the decrement leaves alone as a ≠ b. -/
theorem exec_push_pushes (hab : a ≠ b) :
    ∃ t, exec (.push a b) s = .next t ∧ Pushes a (s.reg b) s t := by
  refine ⟨_, rfl, preDecrement_val s.advance a, ?top, rfl, ?regs,
    fun _ ha => State.readMem_writeMem_ne _ ha _, machineKept_regs_pc_mem s _ _ _⟩
  case top => exact (State.readMem_writeMem_same _ _ _).trans (preDecrement_reg_ne s.advance hab.symm)
  case regs => exact fun r hr => preDecrement_reg_ne s.advance (List.ne_of_not_mem_cons hr)

/-- POP pops into `x[b]`, which the increment leaves alone as a ≠ b. -/
theorem exec_pop_pops (hab : a ≠ b) : ∃ t, exec (.pop a b) s = .next t ∧ Pops a b s t := by
  refine ⟨_, rfl, ?loaded, ?pointer, rfl, ?regs, fun _ => rfl, machineKept_regs_pc_mem s _ _ _⟩
  case loaded => exact (postIncrement_reg_ne _ hab.symm).trans (State.reg_setReg_same _ b _)
  case pointer => rw [postIncrement_val, State.val_setReg_ne _ hab, State.advance_val]
  case regs =>
    intro r hr
    obtain ⟨hra, hrb⟩ : r ≠ a ∧ r ≠ b := by simpa using hr
    rw [postIncrement_reg_ne _ hra, State.reg_setReg_ne _ hrb, State.advance_reg]

variable {s} {t u : State} {v : Byte}

/-- The pushed cell is the one the model's decrement points at. -/
theorem Pushes.reg_pointer (h : Pushes a v s t) : t.reg a = (s.advance.preDecrement a).reg a :=
  reg_eq_of_val_eq (h.pointer.trans (preDecrement_val s.advance a).symm)

/-- Popping takes back the decrement of pushing. -/
theorem Pushes.pointer_of_pops (hpush : Pushes a v s t) (hpop : Pops a d t u) :
    u.reg a = s.reg a := by
  have hlt := s.val_lt a
  apply reg_eq_of_val_eq
  rw [hpop.pointer, hpush.pointer]
  omega

/-- Pushing and then popping into `x[d]` changes no register but `x[d]`, the pointer included. -/
theorem Pushes.regs_of_pops (hpush : Pushes a v s t) (hpop : Pops a d t u) :
    RegsKeptBut s u [d] := by
  intro r hr
  by_cases hra : r = a
  · rw [hra, hpush.pointer_of_pops hpop]
  · have hrd : r ≠ d := List.ne_of_not_mem_cons hr
    rw [hpop.regs r (by simp [hra, hrd]), hpush.regs r (by simp [hra])]

/-- Pushing and popping are two steps of `pc`. -/
theorem Pushes.pc_of_pops (hpush : Pushes a v s t) (hpop : Pops a d t u) :
    u.pc.toNat = (s.pc.toNat + 2) % 256 := by
  rw [hpop.pc, npc_toNat, hpush.pc, npc_toNat]
  omega

end Stack

/-- Settles O29: PUSH pushes `x[b]`, and the address of the statement is the lowered pointer. -/
theorem pushStoresBelowTheStackPointer : Obligations.PushStoresBelowTheStackPointer := by
  intro s a b hab
  obtain ⟨t, hexec, hpush⟩ := exec_push_pushes s hab
  refine ⟨decode_push hab, t, hexec, hpush.pointer, hpush.pc, hpush.regs, hpush.machine, ?cell⟩
  rintro addr haddr
  obtain rfl : addr = t.reg a := haddr.trans hpush.reg_pointer.symm
  exact ⟨hpush.pointer, hpush.top, hpush.data⟩

/-- Settles O30: POP pops the cell at the pointer; after a PUSH the pointer is at the pushed cell, so what
is loaded is the pushed value, and the two moves of the pointer cancel. -/
theorem popLoadsAtTheStackPointer : Obligations.PopLoadsAtTheStackPointer := by
  refine ⟨fun s a b hab => ?pop, fun s a b d hab had => ?pushPop⟩
  case pop =>
    obtain ⟨t, hexec, hpop⟩ := exec_pop_pops s hab
    exact ⟨decode_pop hab, t, hexec, hpop.loaded, hpop.pointer, hpop.pc, hpop.regs, hpop.data,
      hpop.machine⟩
  case pushPop =>
    obtain ⟨t, hexecPush, hpush⟩ := exec_push_pushes s hab
    obtain ⟨u, hexecPop, hpop⟩ := exec_pop_pops t had
    exact ⟨t, u, hexecPush, hexecPop, hpush.pointer_of_pops hpop, hpop.loaded.trans hpush.top,
      hpush.pc_of_pops hpop, hpush.regs_of_pops hpop,
      fun addr haddr => (hpop.data addr).trans (hpush.data addr haddr)⟩

end Sys2Proof.Machine

/-! SUPPORT. The control transfers: what is kept by an instruction that only sets `pc` (JZ, JNZ), that CALL
is a push of `npc` followed by a jump, and the four writes of RECALL (42_control_transfer.md R100, R103 to
R106). -/

namespace Sys2Proof.Machine

/-! ### What the instructions answer -/

section Answers
variable (a b c : RegIx) (imm : Byte) (s : State)

/-- CALLS writes the link and jumps (R105). -/
theorem exec_calls : exec (.calls a imm) s = .next ((s.advance.setReg a s.npc).setPc imm) := rfl

/-- The state in which `v` is stored at the pointer `x[a]` after the decrement, as PUSH and CALL do
(R90, R106). -/
def State.pushed (v : Byte) : State :=
  (s.advance.preDecrement a).writeMem ((s.advance.preDecrement a).reg a) v

/-- CALL pushes `npc` and jumps (R106). -/
theorem exec_call : exec (.call a imm) s = .next ((s.pushed a s.npc).setPc imm) := rfl

/-- RECALL stores `npc` in the cell pointed at, jumps to what that cell held, raises the pointer and
links (R100). -/
theorem exec_recallBump :
    exec (.recallBump a b c) s =
      .next ((((s.advance.writeMem (s.reg a) s.npc).setPc (s.readMem (s.reg a))).bump a c).setReg b
        s.npc) := rfl

end Answers

/-! ### The conditional jumps and CALLS -/

/-- A write to `pc` alone keeps the registers, data memory and the rest of the machine. -/
theorem advance_setPc_frame (s : State) (target : Byte) :
    RegsKeptBut s (s.advance.setPc target) [] ∧ DataKept s (s.advance.setPc target) ∧
      MachineKept s (s.advance.setPc target) :=
  ⟨fun _ _ => rfl, fun _ => rfl, machineKept_regs_pc_mem s _ _ _⟩

/-- Settles O37: opcodes 8 and 9 select by the opcode alone (R59), and the target of each jump is read off
in the two cases of its test. -/
theorem conditionalJumps : Obligations.ConditionalJumps := by
  intro s a imm
  refine ⟨decode_wordAI (by decide) a imm, decode_wordAI (by decide) a imm, ?jz, ?jnz⟩
  case jz =>
    exact ⟨_, execJz_eq a imm s, fun hzero => if_pos hzero, fun hne => if_neg hne,
      advance_setPc_frame s _⟩
  case jnz =>
    exact ⟨_, execJnz_eq a imm s, fun hne => if_pos hne, fun hzero => if_neg (not_not_intro hzero),
      advance_setPc_frame s _⟩

/-- Settles O38: opcode 10 selects CALLS (R59), which writes the one register and `pc`. -/
theorem subroutineCallLinksInARegister : Obligations.SubroutineCallLinksInARegister := by
  intro s a imm
  refine ⟨decode_wordAI (by decide) a imm, _, exec_calls a imm s, ?link, rfl,
    regsKeptBut_advance_setReg s a s.npc, fun _ => rfl, machineKept_regs_pc_mem s _ _ _⟩
  case link => exact (State.val_setReg_same s.advance a s.npc).trans (npc_toNat s)

/-! ### CALL -/

/-- Storing at the decremented pointer is a push, whatever the value stored. -/
theorem pushes_pushed (a : RegIx) (v : Byte) (s : State) : Pushes a v s (s.pushed a v) where
  pointer := preDecrement_val s.advance a
  top := State.readMem_writeMem_same _ _ v
  pc := rfl
  regs := fun _ hr => preDecrement_reg_ne s.advance (List.ne_of_not_mem_cons hr)
  data := fun _ haddr => State.readMem_writeMem_ne _ haddr v
  machine := machineKept_regs_pc_mem s _ _ _

/-- Settles O39: opcode 11 selects CALL (R59), which pushes `npc`; the jump that follows changes only
`pc`, so the facts of the push are those of the statement. -/
theorem stackCallPushesTheReturnAddress : Obligations.StackCallPushesTheReturnAddress := by
  intro s a imm
  have hpush : Pushes a s.npc s (s.pushed a s.npc) := pushes_pushed a s.npc s
  refine ⟨decode_wordAI (by decide) a imm, _, exec_call a imm s, hpush.pointer, rfl, hpush.regs,
    hpush.machine, ?cell⟩
  rintro addr haddr
  obtain rfl : addr = (s.pushed a s.npc).reg a := haddr.trans hpush.reg_pointer.symm
  exact ⟨hpush.pointer, hpush.top, hpush.data⟩

/-! ### RECALL -/

/-- Opcode 1 selects RECALL where a is neither b nor c (R56). -/
theorem decode_recallBump {a b c : RegIx} (hab : a ≠ b) (hac : a ≠ c) :
    decode (wordABC 1 a b c) = .recallBump a b c :=
  (decode_opcode1 a b c).trans ((if_neg hab).trans (if_neg hac))

/-- Settles O34: the cell written is the one at the old pointer, which the bump and the link, writing
registers, leave alone; the link leaves the raised pointer alone as a ≠ b, and the bump reads the old
`x[c]` as the link is written after it (so b = c is no exception). -/
theorem recallSwapsPcWithTheStackCell : Obligations.RecallSwapsPcWithTheStackCell := by
  intro s a b c hab hac
  refine ⟨decode_recallBump hab hac, _, exec_recallBump a b c s, rfl, ?cell, ?data, ?pointer, ?link,
    ?regs, machineKept_regs_pc_mem s _ _ _⟩
  case cell => exact State.readMem_writeMem_same s.advance (s.reg a) s.npc
  case data => exact fun _ haddr => State.readMem_writeMem_ne s.advance haddr s.npc
  case pointer => exact (State.val_setReg_ne _ hab s.npc).trans (bump_val _ a c)
  case link => exact State.reg_setReg_same _ b s.npc
  case regs =>
    intro r hr
    obtain ⟨hra, hrb⟩ : r ≠ a ∧ r ≠ b := by simpa using hr
    exact (State.reg_setReg_ne _ hrb s.npc).trans (bump_reg_ne _ c hra)

end Sys2Proof.Machine

/-! SUPPORT. The system calls: what is kept by a call that only writes a stream, and by one that only takes
an answer and reports it in registers (43_system.md R123, R124, R127, R129). -/

namespace Sys2Proof.Machine

/-! ### What the instructions answer -/

section Answers
variable (a : RegIx) (s : State)

/-- SYS 0 dumps the state after the advance (R123). -/
theorem exec_sys0 : exec (.sys0 a) s = .next s.advance.dump := rfl

/-- SYS 4 writes the one code `x[a]` (R127). -/
theorem exec_sys4 : exec (.sys4 a) s = .next (s.advance.writeChar (s.reg a)) := rfl

/-- A selector past the six system calls is an advance of `pc` and nothing else (R129). -/
theorem exec_sysN (imm : Byte) : exec (.sysN a imm) s = .next s.advance := rfl

end Answers

/-! ### Frames -/

/-- A write to `pc` and the streams keeps everything the engine computes with. -/
theorem pc_streams_frame (s : State) (pc : Byte) (output : List Byte) (dumps : List Dump) :
    let t : State := { s with pc := pc, output := output, dumps := dumps }
    RegsKeptBut s t [] ∧ DataKept s t ∧ InstructionsKept s t ∧ HaltKept s t ∧ AnswersKept s t :=
  ⟨fun _ _ => rfl, fun _ => rfl, fun _ => rfl, ⟨rfl, rfl⟩, ⟨rfl, rfl⟩⟩

/-- A write to registers and `pc` and the taking of answers keep the memories, the halt latch and the
streams. -/
theorem regs_pc_answers_frame (s : State) (regs : Vector Byte 16) (pc : Byte)
    (ints : List IntAnswer) (chars : List CharAnswer) :
    let t : State := { s with regs := regs, pc := pc, intAnswers := ints, charAnswers := chars }
    DataKept s t ∧ InstructionsKept s t ∧ HaltKept s t ∧ StreamsKept s t :=
  ⟨fun _ => rfl, fun _ => rfl, ⟨rfl, rfl⟩, ⟨rfl, rfl⟩⟩

/-! ### The register-flag protocol, as the reads' statements speak of it (R151) -/

/-- A success sets `x[a1]` to 1 and `x[a]` to the scaled value, and keeps the other registers. -/
theorem reportRead_some_vals (s : State) (a : RegIx) (v : Int) :
    (s.reportRead a (some v)).val (a + 1) = 1 ∧ ((s.reportRead a (some v)).val a : Int) = v % 256 ∧
      RegsKeptBut s (s.reportRead a (some v)) [a, a + 1] := by
  obtain ⟨hvalue, hflag, hkept⟩ := reportRead_some s a v
  refine ⟨congrArg BitVec.toNat hflag, ?value, fun r hr => ?kept⟩
  case value => rw [State.val, hvalue, scale_toNat_cast]
  case kept =>
    obtain ⟨hra, hra1⟩ : r ≠ a ∧ r ≠ a + 1 := by simpa using hr
    exact hkept r hra hra1

/-- A failure sets `x[a1]` to 0 and keeps the other registers, `x[a]` included. -/
theorem reportRead_none_vals (s : State) (a : RegIx) :
    (s.reportRead a none).val (a + 1) = 0 ∧ RegsKeptBut s (s.reportRead a none) [a + 1] := by
  obtain ⟨hflag, hkept⟩ := reportRead_none s a
  exact ⟨congrArg BitVec.toNat hflag, fun r hr => hkept r (List.ne_of_not_mem_cons hr)⟩

/-! ### The obligations -/

/-- Settles O43: selector 0 selects SYS 0 (R60); the dump is taken after the advance, so its `pc` is `npc`,
and it writes the error stream alone. -/
theorem coreDumpHandsOverTheState : Obligations.CoreDumpHandsOverTheState := by
  intro s a
  exact ⟨decode_opcode15 a 0, _, exec_sys0 a s, State.dump_dumps s.advance, rfl, rfl,
    pc_streams_frame s _ _ _⟩

/-- Settles O44: selector 1 selects SYS 1 (R60), which takes the one answer and reports it by the
register-flag protocol; on failure `x[a]` is among the registers kept, as it is not `x[a1]`. -/
theorem readIntegerReportsInTheNextRegister : Obligations.ReadIntegerReportsInTheNextRegister := by
  intro s a rest
  refine ⟨decode_opcode15 a 1, fun v hq => ?ok, fun hq => ?fail⟩
  case ok =>
    obtain ⟨hflag, hvalue, hkept⟩ := reportRead_some_vals { s with intAnswers := rest }.advance a v
    exact ⟨_, execSys1_of_cons hq a, hflag, hvalue, rfl, rfl, rfl, hkept,
      regs_pc_answers_frame s _ _ _ _⟩
  case fail =>
    obtain ⟨hflag, hkept⟩ := reportRead_none_vals { s with intAnswers := rest }.advance a
    exact ⟨_, execSys1_of_cons hq a, hflag, rfl, rfl, rfl, hkept, regs_pc_answers_frame s _ _ _ _⟩

/-- Settles O48: selector 4 selects SYS 4 (R60), which appends the code to the output and writes no other
stream. -/
theorem writeCharacterAppendsOneCode : Obligations.WriteCharacterAppendsOneCode := by
  intro s a
  exact ⟨decode_opcode15 a 4, _, exec_sys4 a s, State.writeChar_output s.advance _, rfl, rfl,
    pc_streams_frame s _ _ _⟩

/-- Settles O50: the selectors from 6 on select the no-operation (R60), whose advance is a write to `pc`
alone. -/
theorem otherSelectorsDoNothing : Obligations.OtherSelectorsDoNothing := by
  intro s a imm
  exact ⟨fun himm => (decode_opcode15 a imm).trans (selectSystemCall_of_six_le a himm),
    _, exec_sysN a s imm, rfl, advance_setPc_frame s s.npc⟩

end Sys2Proof.Machine

/-! SUPPORT. Numerals of the load image: the range each digit comes from, and the value of a word one
character at a time (70_reset_and_hazards.md R163, R164). -/

namespace Sys2Proof.Machine

/-! ### Digits -/

/-- Each row of the table that gives a digit its meaning lies in one of the two ranges of characters
(R163). -/
theorem digit_range {ch : Char} (h : digit ch ≠ none) :
    ('0' ≤ ch ∧ ch ≤ '9') ∨ ('A' ≤ ch ∧ ch ≤ 'Z') := by
  change ('0'.toNat ≤ ch.toNat ∧ ch.toNat ≤ '9'.toNat) ∨
    ('A'.toNat ≤ ch.toNat ∧ ch.toNat ≤ 'Z'.toNat)
  simp only [digit, Char.reduceToNat] at h ⊢
  split at h
  case isTrue decimal => exact .inl decimal
  split at h
  case isTrue sixteen => exact .inr (by omega)
  split at h
  case isTrue eight => exact .inr (by omega)
  split at h
  case isTrue one => exact .inr (by omega)
  split at h
  case isTrue zero => exact .inr (by omega)
  case isFalse => exact absurd rfl h

/-- Settles O51: the digits of each row are finitely many, and a character outside the rows is none. -/
theorem numeralTable : Obligations.NumeralTable :=
  ⟨by decide, by decide, by decide, by decide, by decide, fun _ => digit_range⟩

/-! ### Words -/

/-- A digit is added to what was read before it. -/
theorem wordValueFrom_cons_of_some {ch : Char} {d : Digit} (h : digit ch = some d) (acc : Option Nat)
    (chars : List Char) :
    wordValueFrom acc (ch :: chars) = wordValueFrom (some (accumulate acc d)) chars := by
  simp [wordValueFrom, h]

/-- A character that is no digit leaves the run without a value. -/
theorem wordValueFrom_cons_of_none {ch : Char} (h : digit ch = none) (acc : Option Nat)
    (chars : List Char) : wordValueFrom acc (ch :: chars) = none := by
  simp [wordValueFrom, h]

/-- The digits after the first are folded into the accumulator, each by its own base (R164). -/
theorem wordValueFrom_eq_foldl (chars : List Char) : ∀ (ds : List Digit) (n : Nat),
    chars.map digit = ds.map some →
    wordValueFrom (some n) chars = some (ds.foldl (fun acc e => acc * e.base + e.value) n) := by
  induction chars with
  | nil =>
    intro ds n h
    obtain rfl : ds = [] := by simpa using h
    rfl
  | cons ch chars ih =>
    intro ds n h
    cases ds with
    | nil => simp at h
    | cons d ds =>
      obtain ⟨hd, hds⟩ := List.cons.inj h
      exact (wordValueFrom_cons_of_some hd _ _).trans (ih ds _ hds)

/-- A foreign character anywhere in the run leaves it without a value, whatever was read before. -/
theorem wordValueFrom_eq_none (chars : List Char) : ∀ acc : Option Nat,
    (∃ ch ∈ chars, digit ch = none) → wordValueFrom acc chars = none := by
  induction chars with
  | nil => simp
  | cons ch chars ih =>
    intro acc hforeign
    cases hd : digit ch with
    | none => exact wordValueFrom_cons_of_none hd acc chars
    | some d =>
      rw [wordValueFrom_cons_of_some hd]
      exact ih _ (by simpa [hd] using hforeign)

/-- Settles O52: the first digit seeds the accumulator, and the rest of the run is folded into it. -/
theorem wordValueShiftsByEachDigitsBase : Obligations.WordValueShiftsByEachDigitsBase :=
  ⟨fun _ chars d ds hd hds =>
    (wordValueFrom_cons_of_some hd none chars).trans (wordValueFrom_eq_foldl chars ds d.value hds),
    fun chars => wordValueFrom_eq_none chars none⟩

end Sys2Proof.Machine

/-! SUPPORT. The state that accepted sections load: which sections are accepted, and what each part of the
state holds (70_reset_and_hazards.md R166 to R169). -/

namespace Sys2Proof.Machine

/-! ### Which sections are accepted -/

/-- The sections are acceptable exactly when their lengths and their words fit (R168, R169). -/
theorem Sections.problem_eq_none_iff (x : Sections) : x.problem = none ↔
    x.registers.length ≤ 16 ∧ x.memory.length ≤ 256 ∧ x.firstInstructions.length ≤ 255 ∧
      x.firstInstructions.length + x.secondInstructions.length ≤ 256 ∧
      (∀ v ∈ x.registers ++ x.memory, v ≤ 255) ∧
      ∀ v ∈ x.firstInstructions ++ x.secondInstructions, v ≤ 65535 := by
  unfold Sections.problem
  split
  case isTrue long => simp; omega
  case isFalse short =>
    simp only [not_or, Nat.not_lt] at short
    simp only [List.forall_mem_append]
    simp [short, and_assoc]

/-- An image whose sections are cut is loaded exactly when they are acceptable, and what follows it stays
in the stream (R162). -/
theorem load_eq_loaded_iff {stream : List Char} {x : Sections} {rest : List Char}
    (h : parseImage stream = .ok (x, rest)) (s : State) (rest' : List Char) :
    load stream = .loaded s rest' ↔ x.problem = none ∧ x.loaded = s ∧ rest = rest' := by
  simp only [load, h, loadSections]
  cases x.problem <;> simp

/-! ### What the words become -/

/-- Words that fit a cell are kept by it as they are; a missing word is 0. -/
theorem toNat_ofNat_getD {w : Nat} {words : List Nat} (hfit : ∀ v ∈ words, v < 2 ^ w) (i : Nat) :
    (BitVec.ofNat w (words.getD i 0)).toNat = words.getD i 0 := by
  rw [BitVec.toNat_ofNat, Nat.mod_eq_of_lt]
  by_cases hi : i < words.length
  · simpa [hi] using hfit _ (List.getElem_mem hi)
  · rw [List.getD_eq_default _ _ (Nat.le_of_not_lt hi)]
    exact Nat.two_pow_pos w

/-- An empty memory filled from address 0 reads as the words, and as 0 past the last. -/
theorem Memory.toNat_read_fill_nil {w : Nat} {words : List Nat} (hfit : ∀ v ∈ words, v < 2 ^ w)
    (a : Nat) : ((Memory.fill ([] : Memory w) 0 words).read a).toNat = words.getD a 0 := by
  rw [Memory.read_fill]
  split
  case isTrue => exact toNat_ofNat_getD hfit a
  case isFalse past =>
    rw [List.getD_eq_default _ _ (by omega)]
    rfl

/-- Filling with one run of words and going on with another is filling with both (R166). -/
theorem Memory.fill_append {w : Nat} (words more : List Nat) : ∀ (m : Memory w) (a : Nat),
    m.fill a (words ++ more) = (m.fill a words).fill (a + words.length) more := by
  induction words with
  | nil => intro m a; rfl
  | cons word words ih =>
    intro m a
    rw [List.cons_append, Memory.fill, ih, Memory.fill, List.length_cons]
    congr 1
    omega

/-- The registers loaded from reset hold the words, and 0 past the last. -/
theorem State.reset_loadRegs_val {words : List Nat} (hlen : words.length ≤ 16)
    (hfit : ∀ v ∈ words, v < 2 ^ 8) (r : RegIx) :
    (State.reset.loadRegs 0 words).val r = words.getD r.val 0 := by
  rw [State.val, State.loadRegs_reg _ _ _ _ (by omega)]
  split
  case isTrue => exact toNat_ofNat_getD hfit r.val
  case isFalse past =>
    rw [List.getD_eq_default _ _ (by omega), State.reset_reg]
    rfl

/-! ### The parts of the state loaded (R166, R167) -/

theorem Sections.loaded_val (x : Sections) (r : RegIx) :
    x.loaded.val r = (State.reset.loadRegs 0 x.registers).val r := rfl

theorem Sections.loaded_mem (x : Sections) : x.loaded.mem = Memory.fill [] 0 x.memory :=
  congrArg (fun s : State => s.mem.fill 0 x.memory) (State.loadRegs_frame x.registers State.reset 0)

theorem Sections.loaded_imem (x : Sections) :
    x.loaded.imem = Memory.fill [] 0 (x.firstInstructions ++ x.secondInstructions) := by
  rw [Memory.fill_append, Nat.zero_add, Sections.loaded, State.loadRegs_frame]
  rfl

theorem Sections.loaded_halted (x : Sections) : x.loaded.halted = false :=
  congrArg State.halted (State.loadRegs_frame x.registers State.reset 0)

/-- Settles O54: the sections of an accepted image fit, so that no word and no count is cut off where it
is stored. -/
theorem loadPlacesTheWords : Obligations.LoadPlacesTheWords := by
  intro stream x rest rest' s hparse hload
  obtain ⟨hfit, rfl, rfl⟩ := (load_eq_loaded_iff hparse s rest').mp hload
  obtain ⟨hregs, -, hpc, -, hbytes, hwords⟩ := x.problem_eq_none_iff.mp hfit
  obtain ⟨hregWords, hmemWords⟩ := List.forall_mem_append.mp hbytes
  refine ⟨rfl, fun r => ?registers, fun a => ?memory, fun a => ?instructions, ?pc, x.loaded_halted⟩
  case registers =>
    exact State.reset_loadRegs_val hregs (fun v hv => Nat.lt_succ_of_le (hregWords v hv)) r
  case memory =>
    rw [State.readMem, x.loaded_mem]
    exact Memory.toNat_read_fill_nil (fun v hv => Nat.lt_succ_of_le (hmemWords v hv)) a.toNat
  case instructions =>
    rw [State.readImem, x.loaded_imem]
    exact Memory.toNat_read_fill_nil (fun v hv => Nat.lt_succ_of_le (hwords v hv)) a.toNat
  case pc => exact Nat.mod_eq_of_lt (Nat.lt_succ_of_le hpc)

end Sys2Proof.Machine

/-! SUPPORT. Decode and encode undo each other: a well-formed instruction is what its own word selects, and
what a word selects is well formed and has that word (30_encoding.md R54 to R62). -/

namespace Sys2Proof

/-! ### Decoding the word of an instruction -/

/-- The condition on the indices that makes an instruction well formed is the one under which its word
selects it. -/
theorem decode_encode {i : Instr} (h : i.wf = true) : decode (encode i) = i := by
  cases i with
  | div a b c | clt a b c | sub a b c | ldx a b c | stx a b c | mul a b c | callx a b c =>
    exact (decode_wordABC (by decide) a b c).trans (if_pos (of_decide_eq_true h))
  | add a b c | or a b c | and a b c | xor a b c =>
    exact (decode_wordABC (by decide) a b c).trans (if_neg (not_le.mpr (of_decide_eq_true h)))
  | shl a b | shr a b =>
    exact (decode_wordABC (by decide) a b b).trans (if_neg (not_not_intro rfl))
  | push a b => exact Machine.decode_push (of_decide_eq_true h)
  | pop a b => exact Machine.decode_pop (of_decide_eq_true h)
  | recallBump a b c =>
    obtain ⟨hab, hac⟩ : a ≠ b ∧ a ≠ c := by simpa [Instr.wf] using h
    exact Machine.decode_recallBump hab hac
  | halt a =>
    exact (decode_opcode0 a a a).trans
      ((if_neg (not_not_intro rfl)).trans (if_neg (not_not_intro rfl)))
  | ret a c => exact (decode_opcode1 a a c).trans (if_pos rfl)
  | jz a imm | jnz a imm | calls a imm | call a imm | ldr a imm | str a imm | ldc a imm =>
    exact decode_wordAI (by decide) a imm
  | sys0 a | sys1 a | sys2 a | sys3 a | sys4 a | sys5 a => exact decode_opcode15 a _
  | sysN a imm =>
    exact (decode_opcode15 a imm).trans (selectSystemCall_of_six_le a (of_decide_eq_true h))

/-- Settles O4: for each row of the table, the condition of well-formedness is that of its selection. -/
theorem decodingAnEncodingGivesTheInstruction :
    Obligations.DecodingAnEncodingGivesTheInstruction :=
  fun _ => decode_encode

/-! ### The word of a decoded instruction -/

/-- The instruction is well formed and `w` is its word. -/
def Instr.HasWord (i : Instr) (w : Word) : Prop := i.wf = true ∧ encode i = w

section Selection
variable {a b c : RegIx} {imm : Byte} {w : Word}

/-- Opcode 0 (R55). -/
theorem hasWord_selectOpcode0 (h : wordABC 0 a b c = w) : (selectOpcode0 a b c).HasWord w := by
  unfold selectOpcode0
  split
  case isTrue hbc => exact ⟨decide_eq_true hbc, h⟩
  case isFalse hbc =>
    obtain rfl : b = c := not_not.mp hbc
    split
    case isTrue hab => exact ⟨decide_eq_true hab, h⟩
    case isFalse hab =>
      obtain rfl : a = b := not_not.mp hab
      exact ⟨rfl, h⟩

/-- Opcode 1 (R56). -/
theorem hasWord_selectOpcode1 (h : wordABC 1 a b c = w) : (selectOpcode1 a b c).HasWord w := by
  unfold selectOpcode1
  split
  case isTrue hab => subst hab; exact ⟨rfl, h⟩
  case isFalse hab =>
    split
    case isTrue hac => subst hac; exact ⟨decide_eq_true hab, h⟩
    case isFalse hac => exact ⟨by simp [Instr.wf, hab, hac], h⟩

/-- Opcode 15 (R60): the selector of a call 0 to 5 is the immediate its word has. -/
theorem hasWord_selectSystemCall (h : wordAI 15 a imm = w) : (selectSystemCall a imm).HasWord w := by
  have himm : ∀ k : Byte, imm.toNat = k.toNat → wordAI 15 a k = w := by
    intro k hk
    rwa [← BitVec.eq_of_toNat_eq hk]
  unfold selectSystemCall
  split
  case h_1 hk => exact ⟨rfl, himm 0 hk⟩
  case h_2 hk => exact ⟨rfl, himm 1 hk⟩
  case h_3 hk => exact ⟨rfl, himm 2 hk⟩
  case h_4 hk => exact ⟨rfl, himm 3 hk⟩
  case h_5 hk => exact ⟨rfl, himm 4 hk⟩
  case h_6 hk => exact ⟨rfl, himm 5 hk⟩
  case h_7 h0 h1 h2 h3 h4 h5 =>
    have hother : 6 ≤ imm.toNat := by
      simp only [imp_false] at h0 h1 h2 h3 h4 h5
      omega
    exact ⟨decide_eq_true hother, h⟩

/-- A choice between two instructions has the word if each has it where it is chosen. -/
theorem hasWord_ite {p : Prop} [Decidable p] {i j : Instr} (hi : p → i.HasWord w)
    (hj : ¬ p → j.HasWord w) : (if p then i else j).HasWord w := by
  split
  case isTrue hp => exact hi hp
  case isFalse hp => exact hj hp

/-- Opcodes 2 and 3 (R57): a repeated index selects the second operation. -/
theorem hasWord_ite_ne {i j : Instr} (hi : i.wf = decide (b ≠ c) ∧ encode i = w)
    (hj : b = c → j.HasWord w) : (if b ≠ c then i else j).HasWord w :=
  hasWord_ite (fun hbc => ⟨hi.1.trans (decide_eq_true hbc), hi.2⟩) (fun hbc => hj (not_not.mp hbc))

/-- Opcodes 4 to 7 (R58): the order of the indices selects. -/
theorem hasWord_ite_le {i j : Instr} (hi : i.wf = decide (b ≤ c) ∧ encode i = w)
    (hj : j.wf = decide (c < b) ∧ encode j = w) : (if b ≤ c then i else j).HasWord w :=
  hasWord_ite (fun hbc => ⟨hi.1.trans (decide_eq_true hbc), hi.2⟩)
    (fun hbc => ⟨hj.1.trans (decide_eq_true (not_le.mp hbc)), hj.2⟩)

/-- What an opcode selects has the word that is laid out, in both formats, as the opcode and the fields. -/
theorem hasWord_select {op : Nat} (hop : op < 16) (hABC : wordABC op a b c = w)
    (hAI : wordAI op a imm = w) : (select (BitVec.ofNat 4 op) a b c imm).HasWord w := by
  interval_cases op
  · exact hasWord_selectOpcode0 hABC
  · exact hasWord_selectOpcode1 hABC
  iterate 2 exact hasWord_ite_ne ⟨rfl, hABC⟩ (by rintro rfl; exact ⟨rfl, hABC⟩)
  iterate 4 exact hasWord_ite_le ⟨rfl, hABC⟩ ⟨rfl, hABC⟩
  iterate 7 exact ⟨rfl, hAI⟩
  exact hasWord_selectSystemCall hAI

end Selection

/-- Settles O5: a word is laid out as its own fields in both formats, and whatever those select has it. -/
theorem encodingADecodedWordGivesTheWord : Obligations.EncodingADecodedWordGivesTheWord := by
  intro w
  rw [decode, fieldOpcode_eq_ofNat (w := w) rfl]
  exact hasWord_select (fieldOpcode_lt w) (wordABC_fields w) (wordAI_fields w)

/-! ### Samples -/

/-- Settles O2: sixteen closed words, each decoded by evaluation. -/
theorem sampleWordsDecode : Obligations.SampleWordsDecode := by
  unfold Obligations.SampleWordsDecode
  decide

end Sys2Proof

/-! SUPPORT. What a step keeps, read off `ExecEffect`, and what runs inherit from their steps: the canonical
form, the program, the halt latch, the streams, and the one fault (10_state.md R14, R18, R24; 43_system.md
R132; 60_exceptions.md R147). -/

namespace Sys2Proof.Machine

/-! ### The step (R14, R18) -/

theorem step_of_running {s : State} (h : s.halted = false) : step s = exec (decode s.fetch) s :=
  if_neg (by simp [h])

theorem step_of_halted {s : State} (h : s.halted = true) : step s = .next s := if_pos h

/-- Settles O6: the word fetched is the instruction cell at `pc`. -/
theorem stepRunsTheDecodedInstruction : Obligations.StepRunsTheDecodedInstruction := by
  rintro s _ hrun rfl
  exact step_of_running hrun

/-- Settles O7. -/
theorem haltedEngineChangesNothing : Obligations.HaltedEngineChangesNothing :=
  fun _ => step_of_halted

/-! ### Placing a word -/

theorem State.readImem_placeInstruction (s : State) (word : Word) (a : Byte) :
    (s.placeInstruction word).readImem a = if a = s.pc then word else s.readImem a := by
  simp [State.readImem, Memory.read_write, BitVec.toNat_inj]

/-- A number that fits is placed as it is. -/
theorem State.withFetchWord_eq (s : State) {nbits n : Nat} (hn : n < 2 ^ nbits) :
    s.withFetchWord nbits n = s.placeInstruction (BitVec.ofNat 16 n) := by
  rw [State.withFetchWord, Nat.mod_eq_of_lt hn]

/-- The word placed is the word fetched. -/
theorem State.fetch_placeInstruction (s : State) (word : Word) :
    (s.placeInstruction word).fetch = word :=
  (s.readImem_placeInstruction word s.pc).trans (if_pos rfl)

/-- Settles O8: the placed word is fetched by a running engine, and placing writes the one cell. -/
theorem placedWordIsTheNextInstruction : Obligations.PlacedWordIsTheNextInstruction := by
  intro s nbits n hbits hn
  have h16 : n < 2 ^ 16 := Nat.lt_of_lt_of_le hn (Nat.pow_le_pow_right (by decide) hbits)
  rw [s.withFetchWord_eq hn]
  refine ⟨_, if_pos ⟨hbits, h16⟩, ?step, fun _ _ => rfl, fun _ => rfl, rfl, fun a ha => ?cells⟩
  case step => rw [step_of_running rfl, s.fetch_placeInstruction]
  case cells => exact (s.readImem_placeInstruction _ a).trans (if_neg ha)

/-! ### Reset (R23, R160) -/

/-- Settles O16. -/
theorem resetClearsTheEngineState : Obligations.ResetClearsTheEngineState :=
  ⟨State.reset_reg, State.reset_readMem, State.reset_readImem, rfl, rfl⟩

/-- Settles O17: the empty memories of reset are in canonical form. -/
theorem resetHasCanonicalForm : Obligations.ResetHasCanonicalForm :=
  State.reset.wf_iff.mpr ⟨Memory.wf_nil, Memory.wf_nil, rfl⟩

/-! ### What the effect of an instruction keeps -/

section Effect
variable {i : Instr} {s t : State}

/-- Only a store and a dump touch what the canonical form speaks of, and both keep it. -/
theorem ExecEffect.wf (h : ExecEffect i s t) (hs : s.wf = true) : t.wf = true := by
  cases h with
  | stores hi regs pc addr v => exact State.wf_writeMem hs addr v
  | dumps a hi => exact State.wf_dump (s := s.advance) hs
  | _ => exact hs

/-- Only HALT sets the latch or the exit status (R18). -/
theorem ExecEffect.haltKept (h : ExecEffect i s t) (hi : ∀ a, i ≠ .halt a) : HaltKept s t := by
  cases h with
  | halts a ha => exact absurd ha (hi a)
  | _ => exact ⟨rfl, rfl⟩

/-- Only the two reads take an answer (R121). -/
theorem ExecEffect.answersKept (h : ExecEffect i s t) (h1 : ∀ a, i ≠ .sys1 a)
    (h3 : ∀ a, i ≠ .sys3 a) : AnswersKept s t := by
  cases h with
  | readsInt a ha => exact absurd ha (h1 a)
  | readsChar a ha => exact absurd ha (h3 a)
  | _ => exact ⟨rfl, rfl⟩

/-- The output stream grows by the codes of system calls 2, 4 and 5 (R132). -/
theorem ExecEffect.output_grows (h : ExecEffect i s t) : ∃ codes, t.output = s.output ++ codes ∧
    (codes ≠ [] → ∃ a, i = .sys2 a ∨ i = .sys4 a ∨ i = .sys5 a) := by
  cases h with
  | emits a hi codes => exact ⟨codes, rfl, fun _ => ⟨a, hi⟩⟩
  | _ => exact ⟨[], (List.append_nil _).symm, fun hne => absurd rfl hne⟩

/-- The error stream grows by the dump of system call 0 (R130). -/
theorem ExecEffect.dumps_grow (h : ExecEffect i s t) : ∃ dumps, t.dumps = s.dumps ++ dumps ∧
    (dumps ≠ [] → ∃ a, i = .sys0 a) := by
  cases h with
  | dumps a hi => exact ⟨_, State.dump_dumps s.advance, fun _ => ⟨a, hi⟩⟩
  | _ => exact ⟨[], (List.append_nil _).symm, fun hne => absurd rfl hne⟩

end Effect

/-- Settles O18: the effect of every instruction keeps the form. -/
theorem stepKeepsCanonicalForm : Obligations.StepKeepsCanonicalForm :=
  fun _ _ hs hstep => (step_effect hstep).wf hs

/-- Settles O13. -/
theorem outputComesOnlyFromSystemCalls : Obligations.OutputComesOnlyFromSystemCalls :=
  fun _ _ hstep => ⟨(step_effect hstep).output_grows, (step_effect hstep).dumps_grow⟩

/-- HALT sets the latch and the exit status after the advance (R120). -/
theorem exec_halt (a : RegIx) (s : State) :
    exec (.halt a) s = .next (s.advance.halt (s.reg a)) := rfl

/-- Settles O11: the step of a HALT is that of `exec_halt`, and no other effect touches the latch. -/
theorem haltSetsTheLatchAndNothingElseDoes : Obligations.HaltSetsTheLatchAndNothingElseDoes := by
  intro s hrun
  refine ⟨fun a ha => ?halt, fun t hstep hother => ?other⟩
  case halt =>
    refine ⟨s.advance.halt (s.reg a), ?_, rfl, rfl, rfl⟩
    rw [step_of_running hrun, ha, exec_halt]
  case other =>
    obtain ⟨hlatch, hstatus⟩ := (step_effect hstep).haltKept hother
    exact ⟨hlatch.trans hrun, hstatus⟩

/-! ### The default advance (R14) -/

/-- An instruction that is no transfer leaves `pc` at the default successor, unless it is a read that
waits. -/
theorem exec_pc {i : Instr} {s t : State} (h : exec i s = .next t) (hi : i.transfers = false)
    (h1 : ∀ a, i = .sys1 a → s.intAnswers ≠ []) (h3 : ∀ a, i = .sys3 a → s.charAnswers ≠ []) :
    t.pc = s.npc := by
  cases i with
  | recallBump | ret | callx | jz | jnz | calls | call => cases hi
  | div a b c => rw [execDiv_frame h]
  | sys1 a =>
    obtain ⟨r, rest, hq⟩ := List.exists_cons_of_ne_nil (h1 a rfl)
    cases (execSys1_of_cons hq a).symm.trans h
    rw [reportRead_frame]
    rfl
  | sys3 a =>
    obtain ⟨r, rest, hq⟩ := List.exists_cons_of_ne_nil (h3 a rfl)
    cases (execSys3_of_cons hq a).symm.trans h
    rw [reportRead_frame]
    rfl
  | _ => cases h; rfl

/-- A running engine that does not wait has an answer ready for the read at `pc`, if there is one. -/
theorem answers_ne_nil_of_not_waits {s : State} (hrun : s.halted = false) (hw : s.waits = false) :
    (∀ a, decode s.fetch = .sys1 a → s.intAnswers ≠ []) ∧
      ∀ a, decode s.fetch = .sys3 a → s.charAnswers ≠ [] := by
  refine ⟨fun a ha hnil => ?_, fun a ha hnil => ?_⟩ <;> simp [State.waits, hrun, ha, hnil] at hw

/-- Settles O9. -/
theorem pcIsTheSuccessorUnlessTransferred : Obligations.PcIsTheSuccessorUnlessTransferred := by
  intro s t hrun hwaits hstep hi
  obtain ⟨h1, h3⟩ := answers_ne_nil_of_not_waits hrun hwaits
  rw [step_of_running hrun] at hstep
  rw [exec_pc hstep hi h1 h3, npc_toNat]

/-! ### Division (R70) -/

/-- The state between the two writes of DIV: the quotient stands in `x[a]`. -/
def State.withQuotient (s : State) (a b c : RegIx) : State :=
  s.advance.setReg a (scale (s.val b / s.val c : Nat))

/-- The quotient of two bytes is a byte, so the write keeps it whole. -/
theorem withQuotient_val_same (s : State) (a b c : RegIx) :
    (s.withQuotient a b c).val a = s.val b / s.val c :=
  (State.val_setReg_same _ a _).trans
    (scale_toNat_of_lt (Nat.lt_of_le_of_lt (Nat.div_le_self _ _) (s.val_lt b)))

theorem withQuotient_val_ne (s : State) {a r : RegIx} (h : r ≠ a) (b c : RegIx) :
    (s.withQuotient a b c).val r = s.val r :=
  State.val_setReg_ne _ h _

section Division
variable {s : State} (a b : RegIx) {c : RegIx}

theorem execDiv_of_divisor_zero (hc : s.val c = 0) : execDiv a b c s = .next s.advance := if_pos hc

/-- With a divisor, DIV goes on by the divisor read after the quotient is written. -/
theorem execDiv_of_divisor_ne_zero (hc : s.val c ≠ 0) :
    execDiv a b c s =
      if (s.withQuotient a b c).val c = 0 then .fault .divAliasZero
      else .next ((s.withQuotient a b c).setReg (nextReg a)
        (scale ((s.withQuotient a b c).val b % (s.withQuotient a b c).val c : Nat))) :=
  if_neg hc

/-- The divisor read after the quotient is written is zero exactly if it is the quotient and the quotient
is zero. -/
theorem withQuotient_divisor_eq_zero_iff (hc : s.val c ≠ 0) :
    (s.withQuotient a b c).val c = 0 ↔ a = c ∧ s.val b < s.val c := by
  by_cases hac : a = c
  · subst hac
    rw [withQuotient_val_same, Nat.div_eq_zero_iff]
    simp [hc]
  · rw [withQuotient_val_ne s (Ne.symm hac)]
    simp [hc, hac]

end Division

/-! ### The one fault (R147) -/

/-- Every instruction but a DIV answers a state. -/
theorem exec_answers {i : Instr} (s : State) (hi : ∀ a b c, i ≠ .div a b c) :
    ∃ t, exec i s = .next t := by
  cases i with
  | div a b c => exact absurd rfl (hi a b c)
  | sys1 a =>
    cases hq : s.intAnswers with
    | nil => exact ⟨_, execSys1_of_nil hq a⟩
    | cons r rest => exact ⟨_, execSys1_of_cons hq a⟩
  | sys3 a =>
    cases hq : s.charAnswers with
    | nil => exact ⟨_, execSys3_of_nil hq a⟩
    | cons r rest => exact ⟨_, execSys3_of_cons hq a⟩
  | _ => exact ⟨_, rfl⟩

/-- The instruction is a DIV whose remainder statement would divide by a quotient of 0 (R70). -/
def DivAliasZero (i : Instr) (s : State) : Prop :=
  ∃ a b c, i = .div a b c ∧ a = c ∧ s.val c ≠ 0 ∧ s.val b < s.val c

/-- Such a DIV stops with the fault. -/
theorem exec_of_divAliasZero {i : Instr} {s : State} (h : DivAliasZero i s) :
    exec i s = .fault .divAliasZero := by
  obtain ⟨a, b, c, rfl, hac, hc, hlt⟩ := h
  exact (execDiv_of_divisor_ne_zero a b hc).trans
    (if_pos ((withQuotient_divisor_eq_zero_iff a b hc).mpr ⟨hac, hlt⟩))

/-- Every other instruction answers a state. -/
theorem exec_of_not_divAliasZero {i : Instr} {s : State} (h : ¬ DivAliasZero i s) :
    ∃ t, exec i s = .next t := by
  by_cases hdiv : ∃ a b c, i = .div a b c
  · obtain ⟨a, b, c, rfl⟩ := hdiv
    by_cases hc : s.val c = 0
    · exact ⟨_, execDiv_of_divisor_zero a b hc⟩
    · have hdefined : ¬ (s.withQuotient a b c).val c = 0 := fun hzero =>
        have ⟨hac, hlt⟩ := (withQuotient_divisor_eq_zero_iff a b hc).mp hzero
        h ⟨a, b, c, rfl, hac, hc, hlt⟩
      exact ⟨_, (execDiv_of_divisor_ne_zero a b hc).trans (if_neg hdefined)⟩
  · exact exec_answers s fun a b c hi => hdiv ⟨a, b, c, hi⟩

/-- A step stops at such a DIV, taken by a running engine, and nowhere else. -/
theorem step_cases (s : State) :
    (s.halted = false ∧ DivAliasZero (decode s.fetch) s ∧ step s = .fault .divAliasZero) ∨
      (¬ (s.halted = false ∧ DivAliasZero (decode s.fetch) s) ∧ ∃ t, step s = .next t) := by
  cases hrun : s.halted with
  | true => exact .inr ⟨by simp, s, step_of_halted hrun⟩
  | false =>
    rw [step_of_running hrun]
    by_cases hdiv : DivAliasZero (decode s.fetch) s
    · exact .inl ⟨rfl, hdiv, exec_of_divAliasZero hdiv⟩
    · exact .inr ⟨fun h => hdiv h.2, exec_of_not_divAliasZero hdiv⟩

/-- Settles O10: a step has the one fault or answers a state, by `step_cases`. -/
theorem stepsStopOnlyOnDivAliasZero : Obligations.StepsStopOnlyOnDivAliasZero := by
  intro s
  change _ ∧ _ ∧ (_ ↔ s.halted = false ∧ DivAliasZero (decode s.fetch) s)
  obtain ⟨hrun, hdiv, hstep⟩ | ⟨hno, t, hstep⟩ := step_cases s
  · rw [hstep]
    exact ⟨nofun, fun f hf => by cases hf; rfl, fun _ => ⟨hrun, hdiv⟩, fun _ => ⟨_, rfl⟩⟩
  · rw [hstep]
    exact ⟨nofun, nofun, nofun, fun h => absurd h hno⟩

/-! ### Runs of the machine behind the host's interface -/

theorem run_zero (s : State) : Host.Core.run Sys2Proof.core 0 s = .next s := rfl

theorem run_succ_of_step {s t : State} (h : step s = .next t) (n : Nat) :
    Host.Core.run Sys2Proof.core (n + 1) s = Host.Core.run Sys2Proof.core n t := by
  have hstep : Host.Core.step Sys2Proof.core s = .next t := h
  simp only [Host.Core.run, hstep]

/-- A run of one step more that answers a state has a first step that answers one. -/
theorem run_succ_eq_next {s t : State} {n : Nat}
    (h : Host.Core.run Sys2Proof.core (n + 1) s = .next t) :
    ∃ u, step s = .next u ∧ Host.Core.run Sys2Proof.core n u = .next t := by
  obtain ⟨-, -, hstep⟩ | ⟨-, u, hstep⟩ := step_cases s
  · have hfault : Host.Core.step Sys2Proof.core s = .fault .divAliasZero := hstep
    simp only [Host.Core.run, hfault] at h
    cases h
  · exact ⟨u, hstep, (run_succ_of_step hstep n).symm.trans h⟩

/-- What every step keeps, a run keeps. -/
theorem run_invariant {P : State → Prop} (hstep : ∀ s t, P s → step s = .next t → P t) {n : Nat} :
    ∀ {s t : State}, P s → Host.Core.run Sys2Proof.core n s = .next t → P t := by
  induction n with
  | zero => intro s t hs h; cases h; exact hs
  | succ n ih =>
    intro s t hs h
    obtain ⟨u, hu, hrun⟩ := run_succ_eq_next h
    exact ih (hstep s u hs hu) hrun

/-- A longer run goes on from where a shorter one answered. -/
theorem run_add {n : Nat} (m : Nat) : ∀ {s t : State},
    Host.Core.run Sys2Proof.core n s = .next t →
    Host.Core.run Sys2Proof.core (n + m) s = Host.Core.run Sys2Proof.core m t := by
  induction n with
  | zero => intro s t h; cases h; rw [Nat.zero_add]
  | succ n ih =>
    intro s t h
    obtain ⟨u, hu, hrun⟩ := run_succ_eq_next h
    rw [Nat.add_right_comm, run_succ_of_step hu, ih hrun]

/-- A halted engine stays where it is (R18). -/
theorem run_of_halted {s : State} (h : s.halted = true) (n : Nat) :
    Host.Core.run Sys2Proof.core n s = .next s := by
  induction n with
  | zero => exact run_zero s
  | succ n ih => rw [run_succ_of_step (step_of_halted h), ih]

/-- Settles O21: the further steps are those of a halted engine. -/
theorem haltedRunKeepsItsObservation : Obligations.HaltedRunKeepsItsObservation := by
  intro s t n m hrun hhalted
  exact ⟨(run_add m hrun).trans (run_of_halted hhalted m), if_pos hhalted⟩

/-- No instruction cell holds a DIV whose divisor is its destination. -/
def NoAliasedDivision (s : State) : Prop :=
  ∀ (cell : Byte) (a b : RegIx), decode (s.readImem cell) ≠ .div a b a

/-- Where no cell holds such a DIV, a step answers a state, and no cell of it holds one. -/
theorem NoAliasedDivision.step {s : State} (h : NoAliasedDivision s) :
    ∃ t, step s = .next t ∧ NoAliasedDivision t := by
  obtain ⟨-, ⟨a, b, c, hdiv, hac, -⟩, -⟩ | ⟨-, t, hstep⟩ := step_cases s
  · subst hac
    exact absurd hdiv (h s.pc a b)
  · refine ⟨t, hstep, fun cell => ?_⟩
    rw [State.readImem, (step_effect hstep).imem_eq]
    exact h cell

/-- Settles O20: by induction on the number of steps, as no step writes an instruction cell. -/
theorem runsWithoutAliasedDivisionsMeetNoFault :
    Obligations.RunsWithoutAliasedDivisionsMeetNoFault := by
  intro s n h
  change NoAliasedDivision s at h
  induction n generalizing s with
  | zero => exact ⟨s, run_zero s⟩
  | succ n ih =>
    obtain ⟨t, hstep, ht⟩ := h.step
    obtain ⟨u, hrun⟩ := ih t ht
    exact ⟨u, (run_succ_of_step hstep n).trans hrun⟩

end Sys2Proof.Machine

/-! SUPPORT. Noninterference: what an instruction computes with is registers, `pc`, memories and the halt
latch; the streams and the exit status are written and never read, and the answers are read by the two
reads alone (10_state.md section 7; 43_system.md R121, R132). -/

namespace Sys2Proof.Machine

/-! ### Related outcomes -/

/-- Related outcomes are related by what follows from their being so. -/
theorem OutcomesRelated.imp {R R' : State → State → Prop} {x x' : Result}
    (h : OutcomesRelated R x x')
    (hR : ∀ t t', x = .next t → x' = .next t' → R t t' → R' t t') : OutcomesRelated R' x x' := by
  cases x with
  | next t =>
    cases x' with
    | next t' => exact hR t t' rfl rfl h
    | fault | refused => exact h
  | fault | refused => cases x' <;> exact h

/-! ### The environment's side of the state (R19) -/

/-- The engine of `s` in the environment of `e`: registers, `pc`, memories and latch are those of `s`; the
exit status, the answers and the streams those of `e`. -/
def State.withEnvironment (s e : State) : State :=
  { e with regs := s.regs, pc := s.pc, mem := s.mem, imem := s.imem, halted := s.halted }

/-- HALT and the system calls: the instructions that read or write the environment's side of the state. -/
def meetsEnvironment : Instr → Bool
  | .halt _ | .sys0 _ | .sys1 _ | .sys2 _ | .sys3 _ | .sys4 _ | .sys5 _ | .sysN _ _ => true
  | _ => false

/-- Every other instruction does the same in every environment, and leaves it as it is. -/
theorem exec_withEnvironment {i : Instr} (hi : meetsEnvironment i = false) (s e : State) :
    OutcomesRelated (fun t t' => t = t.withEnvironment s ∧ t' = t.withEnvironment e) (exec i s)
      (exec i (s.withEnvironment e)) := by
  cases i with
  | halt | sys0 | sys1 | sys2 | sys3 | sys4 | sys5 | sysN => cases hi
  | div a b c => exact .ite ⟨rfl, rfl⟩ (.ite rfl ⟨rfl, rfl⟩)
  | jz a imm =>
    change OutcomesRelated _ (execJz a imm s) (execJz a imm _)
    rw [execJz_eq, execJz_eq]
    exact ⟨rfl, rfl⟩
  | jnz a imm =>
    change OutcomesRelated _ (execJnz a imm s) (execJnz a imm _)
    rw [execJnz_eq, execJnz_eq]
    exact ⟨rfl, rfl⟩
  | _ => exact ⟨rfl, rfl⟩

/-- A read of an integer does the same in every environment with the same integer answers, and leaves
everything of it but those. -/
theorem exec_sys1_withEnvironment (s e : State) (he : e.intAnswers = s.intAnswers) (a : RegIx) :
    OutcomesRelated (fun t t' => t = t.withEnvironment { s with intAnswers := t.intAnswers } ∧
        t' = t.withEnvironment { e with intAnswers := t.intAnswers })
      (exec (.sys1 a) s) (exec (.sys1 a) (s.withEnvironment e)) := by
  change OutcomesRelated _ (execSys1 a s) (execSys1 a (s.withEnvironment e))
  cases hq : s.intAnswers with
  | nil =>
    rw [execSys1_of_nil hq, execSys1_of_nil (s := s.withEnvironment e) (he.trans hq)]
    exact ⟨rfl, by rw [← he]⟩
  | cons r rest =>
    rw [execSys1_of_cons hq, execSys1_of_cons (s := s.withEnvironment e) (he.trans hq)]
    cases r <;> exact ⟨rfl, rfl⟩

/-- A read of a character does the same in every environment with the same character answers, and leaves
everything of it but those. -/
theorem exec_sys3_withEnvironment (s e : State) (he : e.charAnswers = s.charAnswers) (a : RegIx) :
    OutcomesRelated (fun t t' => t = t.withEnvironment { s with charAnswers := t.charAnswers } ∧
        t' = t.withEnvironment { e with charAnswers := t.charAnswers })
      (exec (.sys3 a) s) (exec (.sys3 a) (s.withEnvironment e)) := by
  change OutcomesRelated _ (execSys3 a s) (execSys3 a (s.withEnvironment e))
  cases hq : s.charAnswers with
  | nil =>
    rw [execSys3_of_nil hq, execSys3_of_nil (s := s.withEnvironment e) (he.trans hq)]
    exact ⟨rfl, by rw [← he]⟩
  | cons r rest =>
    rw [execSys3_of_cons hq, execSys3_of_cons (s := s.withEnvironment e) (he.trans hq)]
    cases r <;> exact ⟨rfl, rfl⟩

/-! ### The streams and the exit status are not read -/

/-- The state with another exit status and other streams. -/
def State.withStreams (s : State) (status : Byte) (output : List Byte) (dumps : List Dump) : State :=
  { s with exitStatus := status, output := output, dumps := dumps }

/-- States that agree in the engine and the answers differ in the exit status and the streams alone. -/
theorem SameEngine.eq_withStreams {s s' : State} (h : SameEngine s s') :
    s' = s.withStreams s'.exitStatus s'.output s'.dumps := by
  obtain ⟨hregs, hpc, hmem, himem, hhalted, hints, hchars⟩ := h
  simp only [State.withStreams, hregs, hpc, hmem, himem, hhalted, hints, hchars]

/-- From `s` to `t` and from `s'` to `t'` the same codes and the same dumps are appended, and `t` and `t'`
agree in the engine and the answers. -/
structure AppendsAlike (s s' t t' : State) : Prop where
  engine : SameEngine t t'
  output : ∃ codes, t.output = s.output ++ codes ∧ t'.output = s'.output ++ codes
  dumps : ∃ dumps, t.dumps = s.dumps ++ dumps ∧ t'.dumps = s'.dumps ++ dumps

section Streams
variable (s : State) (status : Byte) (output : List Byte) (dumps : List Dump)

/-- A state and itself with other streams, reached with nothing appended. -/
theorem appendsAlike_of_silent (t : State) (hout : t.output = s.output) (hdumps : t.dumps = s.dumps)
    (status' : Byte) :
    AppendsAlike s (s.withStreams status output dumps) t (t.withStreams status' output dumps) where
  engine := ⟨rfl, rfl, rfl, rfl, rfl, rfl, rfl⟩
  output := ⟨[], by simp [hout], (List.append_nil _).symm⟩
  dumps := ⟨[], by simp [hdumps], (List.append_nil _).symm⟩

/-- States computed alike in the two environments, which are left as they are but for answers taken,
are reached with nothing appended. -/
theorem appendsAlike_of_withEnvironment {t t' e : State} (hout : e.output = s.output)
    (hdumps : e.dumps = s.dumps)
    (h : t = t.withEnvironment e ∧ t' = t.withEnvironment (e.withStreams status output dumps)) :
    AppendsAlike s (s.withStreams status output dumps) t t' := by
  obtain ⟨ht, rfl⟩ := h
  rw [ht]
  exact appendsAlike_of_silent s status output dumps (t.withEnvironment e) hout hdumps status

/-- Codes formed from what the streams do not hold are appended alike. -/
theorem appendsAlike_emit (codes : List Byte) :
    AppendsAlike s (s.withStreams status output dumps) (s.advance.emit codes)
      ((s.withStreams status output dumps).advance.emit codes) where
  engine := ⟨rfl, rfl, rfl, rfl, rfl, rfl, rfl⟩
  output := ⟨codes, rfl, rfl⟩
  dumps := ⟨[], (List.append_nil _).symm, (List.append_nil _).symm⟩

/-- A dump copies nothing of the streams. -/
theorem appendsAlike_dump :
    AppendsAlike s (s.withStreams status output dumps) s.advance.dump
      (s.withStreams status output dumps).advance.dump where
  engine := ⟨rfl, rfl, rfl, rfl, rfl, rfl, rfl⟩
  output := ⟨[], (List.append_nil _).symm, (List.append_nil _).symm⟩
  dumps := ⟨[s.advance.snapshot], rfl, rfl⟩

/-- Every instruction appends alike, whatever the streams and the exit status are. -/
theorem exec_appendsAlike (i : Instr) :
    OutcomesRelated (AppendsAlike s (s.withStreams status output dumps)) (exec i s)
      (exec i (s.withStreams status output dumps)) := by
  cases i with
  | halt a =>
    exact appendsAlike_of_silent s status output dumps (s.advance.halt (s.reg a)) rfl rfl (s.reg a)
  | sys0 a => exact appendsAlike_dump s status output dumps
  | sys2 | sys4 | sys5 => exact appendsAlike_emit s status output dumps _
  | sysN => exact appendsAlike_of_silent s status output dumps s.advance rfl rfl status
  | sys1 a =>
    exact (exec_sys1_withEnvironment s (s.withStreams status output dumps) rfl a).imp
      fun t _ _ _ => appendsAlike_of_withEnvironment s status output dumps
        (e := { s with intAnswers := t.intAnswers }) rfl rfl
  | sys3 a =>
    exact (exec_sys3_withEnvironment s (s.withStreams status output dumps) rfl a).imp
      fun t _ _ _ => appendsAlike_of_withEnvironment s status output dumps
        (e := { s with charAnswers := t.charAnswers }) rfl rfl
  | _ =>
    exact (exec_withEnvironment rfl s (s.withStreams status output dumps)).imp
      fun _ _ _ _ => appendsAlike_of_withEnvironment s status output dumps rfl rfl

end Streams

/-- A step appends alike: a halted one nothing, a running one as its instruction does. -/
theorem step_appendsAlike {s s' : State} (h : SameEngine s s') :
    OutcomesRelated (AppendsAlike s s') (step s) (step s') := by
  rw [h.eq_withStreams]
  exact .ite (appendsAlike_of_silent s _ _ _ s rfl rfl _) (exec_appendsAlike s _ _ _ _)

/-- Settles O14: both clauses are read off `step_appendsAlike`. -/
theorem streamsAndExitStatusAreNotReadable : Obligations.StreamsAndExitStatusAreNotReadable := by
  intro s s' h
  have halike : OutcomesRelated (AppendsAlike s s') (step s) (step s') := step_appendsAlike h
  refine ⟨halike.imp fun _ _ _ _ ht => ht.engine, fun t t' hstep hstep' => ?_⟩
  rw [hstep, hstep'] at halike
  obtain ⟨-, ⟨codes, hout, hout'⟩, dumps, hdumps, hdumps'⟩ := halike
  exact ⟨codes, dumps, hout, hout', hdumps, hdumps'⟩

/-! ### The answers are read by the two reads alone -/

/-- States that agree in everything but the answers differ in the answers alone. -/
theorem SameButAnswers.eq_withAnswers {s s' : State} (h : SameButAnswers s s') :
    s' = s.withAnswers s'.intAnswers s'.charAnswers :=
  (congrArg (fun u : State => u.withAnswers s'.intAnswers s'.charAnswers) h).symm

/-- Every instruction but the two reads carries the answers along unread (R121). -/
theorem exec_withAnswers {i : Instr} (s : State) (ints : List IntAnswer) (chars : List CharAnswer)
    (h1 : ∀ a, i ≠ .sys1 a) (h3 : ∀ a, i ≠ .sys3 a) :
    OutcomesRelated (fun t t' => t' = t.withAnswers ints chars) (exec i s)
      (exec i (s.withAnswers ints chars)) := by
  cases i with
  | sys1 a => exact absurd rfl (h1 a)
  | sys3 a => exact absurd rfl (h3 a)
  | halt | sys0 | sys2 | sys4 | sys5 | sysN => exact rfl
  | _ =>
    refine (exec_withEnvironment rfl s (s.withAnswers ints chars)).imp ?_
    rintro t _ - - ⟨ht, rfl⟩
    rw [ht]
    rfl

/-- Settles O15: a halted step and every instruction but the reads carry the answers along, and each read
those of the other kind. -/
theorem onlyReadsDependOnAnswers : Obligations.OnlyReadsDependOnAnswers := by
  refine ⟨fun s s' h h1 h3 => ?step, fun s a chars => ?readInt, fun s a ints => ?readChar⟩
  case step =>
    rw [h.eq_withAnswers]
    refine .ite ⟨rfl, ⟨rfl, rfl⟩, ⟨rfl, rfl⟩⟩ ?running
    refine (exec_withAnswers s _ _ h1 h3).imp fun t t' ht ht' hrel => ⟨?_, ?_, ?_⟩
    · rw [hrel]; rfl
    · exact (exec_effect ht).answersKept h1 h3
    · exact (exec_effect ht').answersKept h1 h3
  case readInt =>
    refine (exec_sys1_withEnvironment s { s with charAnswers := chars } rfl a).imp ?_
    rintro t _ - - ⟨ht, rfl⟩
    rw [ht]
    rfl
  case readChar =>
    refine (exec_sys3_withEnvironment s { s with intAnswers := ints } rfl a).imp ?_
    rintro t _ - - ⟨ht, rfl⟩
    rw [ht]
    rfl

end Sys2Proof.Machine

/-! SUPPORT. How the load reads an image: one equation for each character of a section, what an accepted
image looks like, and which images are refused (70_reset_and_hazards.md R162 to R170). -/

namespace Sys2Proof.Machine

/-! ### The characters of a section (R165) -/

/-- The whitespace characters by their codes. -/
theorem isWhitespace_iff (ch : Char) :
    isWhitespace ch = true ↔ ch.toNat ∈ [32, 9, 10, 12, 11] := by
  have hcode : ∀ c : Char, ch = c ↔ ch.toNat = c.toNat := fun c => Char.toNat_inj.symm
  simp [isWhitespace, hcode, or_assoc]

/-- A digit is no whitespace. -/
theorem isWhitespace_of_digit {ch : Char} (h : digit ch ≠ none) : isWhitespace ch = false := by
  have hrange : ('0'.toNat ≤ ch.toNat ∧ ch.toNat ≤ '9'.toNat) ∨
      ('A'.toNat ≤ ch.toNat ∧ ch.toNat ≤ 'Z'.toNat) := digit_range h
  rw [Bool.eq_false_iff, Ne, isWhitespace_iff]
  simp only [Char.reduceToNat, List.mem_cons, List.not_mem_nil, or_false] at hrange ⊢
  omega

/-- A digit is no terminator. -/
theorem ne_terminator_of_digit {ch : Char} (h : digit ch ≠ none) : ch ≠ terminator := by
  rintro rfl
  exact h (by decide)

/-- Whitespace is no terminator. -/
theorem ne_terminator_of_isWhitespace {ch : Char} (h : isWhitespace ch = true) : ch ≠ terminator := by
  rintro rfl
  exact absurd h (by decide)

/-! ### The cutting of a section, one character at a time (R165) -/

section Cutting
variable {ch : Char} (acc : Option Nat) (rest : List Char)

/-- A terminator ends the section, and the run before it, if there is one, is its last word. -/
theorem parseSection_terminator :
    parseSection acc (terminator :: rest) = .ok (acc.toList, rest) := by
  rw [parseSection, if_pos rfl]

/-- Whitespace ends the run before it, if there is one. -/
theorem parseSection_whitespace (h : isWhitespace ch = true) :
    parseSection acc (ch :: rest) =
      (parseSection none rest).map fun p => (acc.toList ++ p.1, p.2) := by
  rw [parseSection, if_neg (ne_terminator_of_isWhitespace h), if_pos h]
  cases parseSection none rest <;> rfl

/-- A digit is added to the run. -/
theorem parseSection_digit {d : Digit} (h : digit ch = some d) :
    parseSection acc (ch :: rest) = parseSection (some (accumulate acc d)) rest := by
  have hdigit : digit ch ≠ none := by simp [h]
  rw [parseSection, if_neg (ne_terminator_of_digit hdigit), isWhitespace_of_digit hdigit, h]
  rfl

/-- Any other character is foreign. -/
theorem parseSection_foreign (h : digit ch = none) (hspace : isWhitespace ch = false)
    (hend : ch ≠ terminator) : parseSection acc (ch :: rest) = .error .badCharacter := by
  rw [parseSection, if_neg hend, hspace, h]
  rfl

end Cutting

/-- A run of digits is read into the accumulator. -/
theorem parseSection_run (rest run : List Char) : ∀ {acc : Option Nat} {v : Nat},
    wordValueFrom acc run = some v → parseSection acc (run ++ rest) = parseSection (some v) rest := by
  induction run with
  | nil =>
    rintro acc v h
    obtain rfl : acc = some v := h
    rfl
  | cons ch run ih =>
    intro acc v h
    cases hd : digit ch with
    | none => simp [wordValueFrom_cons_of_none hd] at h
    | some d =>
      rw [wordValueFrom_cons_of_some hd] at h
      exact (parseSection_digit acc (run ++ rest) hd).trans (ih h)

/-- A word before whitespace is the first of its section. -/
theorem parseSection_word {run rest rest' : List Char} {v : Nat} {ch : Char} {words : List Nat}
    (hrun : wordValue run = some v) (hch : isWhitespace ch = true)
    (hrest : parseSection none rest = .ok (words, rest')) :
    parseSection none (run ++ ch :: rest) = .ok (v :: words, rest') := by
  rw [parseSection_run (ch :: rest) run hrun, parseSection_whitespace _ rest hch, hrest]
  rfl

/-- Settles O53: each clause is the equation of the character it speaks of, after the run is read. -/
theorem sectionsAreCutAtWhitespaceAndTerminators :
    Obligations.SectionsAreCutAtWhitespaceAndTerminators := by
  refine ⟨isWhitespace_iff, parseSection_terminator none, fun ch rest hch => ?skipped,
    fun run v rest hrun => ?last, fun _ _ _ _ _ _ => parseSection_word⟩
  case skipped =>
    rw [parseSection_whitespace none rest hch]
    cases parseSection none rest <;> rfl
  case last =>
    exact (parseSection_run ('%' :: rest) run hrun).trans (parseSection_terminator (some v) rest)

/-! ### What an accepted image looks like (R170) -/

/-- A character that may stand in an image. -/
def IsImageChar (ch : Char) : Prop :=
  digit ch ≠ none ∨ isWhitespace ch = true ∨ ch = terminator

/-- The text before `rest` in the stream has `n` terminators and only characters that may stand in an
image. -/
def HasFront (n : Nat) (stream rest : List Char) : Prop :=
  ∃ front, stream = front ++ rest ∧ front.count terminator = n ∧ ∀ ch ∈ front, IsImageChar ch

theorem hasFront_terminator (rest : List Char) : HasFront 1 (terminator :: rest) rest :=
  ⟨[terminator], rfl, by simp, by simp [IsImageChar]⟩

theorem HasFront.cons {n : Nat} {stream rest : List Char} (h : HasFront n stream rest) {ch : Char}
    (hne : ch ≠ terminator) (hch : IsImageChar ch) : HasFront n (ch :: stream) rest := by
  obtain ⟨front, rfl, hcount, hfront⟩ := h
  exact ⟨ch :: front, rfl, by rw [List.count_cons_of_ne hne, hcount],
    List.forall_mem_cons.mpr ⟨hch, hfront⟩⟩

theorem HasFront.trans {n m : Nat} {stream mid rest : List Char} (h : HasFront n stream mid)
    (hmid : HasFront m mid rest) : HasFront (n + m) stream rest := by
  obtain ⟨front, rfl, hcount, hfront⟩ := h
  obtain ⟨more, rfl, hcount', hmore⟩ := hmid
  exact ⟨front ++ more, by simp, by rw [List.count_append, hcount, hcount'],
    List.forall_mem_append.mpr ⟨hfront, hmore⟩⟩

/-- A section that is read is the front of the stream up to the first terminator. -/
theorem parseSection_front (stream : List Char) : ∀ {acc : Option Nat} {words : List Nat}
    {rest : List Char}, parseSection acc stream = .ok (words, rest) → HasFront 1 stream rest := by
  induction stream with
  | nil => intro acc words rest h; cases h
  | cons ch stream ih =>
    intro acc words rest h
    by_cases hend : ch = terminator
    · subst hend
      cases (parseSection_terminator acc stream).symm.trans h
      exact hasFront_terminator _
    by_cases hspace : isWhitespace ch = true
    · rw [parseSection_whitespace acc stream hspace] at h
      cases hp : parseSection none stream with
      | error why => rw [hp] at h; cases h
      | ok p =>
        rw [hp] at h
        cases h
        exact (ih hp).cons hend (.inr (.inl hspace))
    cases hd : digit ch with
    | none =>
      rw [parseSection_foreign acc stream hd (Bool.eq_false_iff.mpr hspace) hend] at h
      cases h
    | some d =>
      rw [parseSection_digit acc stream hd] at h
      exact (ih h).cons hend (.inl (by simp [hd]))

/-- The four sections of an image are those read one after another. -/
theorem parseImage_ok {stream rest : List Char} {x : Sections}
    (h : parseImage stream = .ok (x, rest)) : ∃ stream1 stream2 stream3,
      parseSection none stream = .ok (x.registers, stream1) ∧
      parseSection none stream1 = .ok (x.memory, stream2) ∧
      parseSection none stream2 = .ok (x.firstInstructions, stream3) ∧
      parseSection none stream3 = .ok (x.secondInstructions, rest) := by
  unfold parseImage at h
  split at h
  case h_1 => cases h
  case h_2 stream1 h1 =>
  split at h
  case h_1 => cases h
  case h_2 stream2 h2 =>
  split at h
  case h_1 => cases h
  case h_2 stream3 h3 =>
  split at h
  case h_1 => cases h
  case h_2 h4 =>
  cases h
  exact ⟨stream1, stream2, stream3, h1, h2, h3, h4⟩

/-- An image that is read is the front of the stream up to the fourth terminator. -/
theorem parseImage_front {stream rest : List Char} {x : Sections}
    (h : parseImage stream = .ok (x, rest)) : HasFront 4 stream rest := by
  obtain ⟨stream1, stream2, stream3, h1, h2, h3, h4⟩ := parseImage_ok h
  exact (parseSection_front _ h1).trans ((parseSection_front _ h2).trans
    ((parseSection_front _ h3).trans (parseSection_front _ h4)))

/-! ### Which images are refused (R168 to R170) -/

/-- A stream whose front is no image is refused. -/
theorem load_rejected_of_no_front {stream : List Char}
    (h : ∀ front, front <+: stream → front.count terminator = 4 →
      ¬ ∀ ch ∈ front, IsImageChar ch) :
    ∃ why, load stream = .rejected (.imageRejected why) := by
  cases hparse : parseImage stream with
  | error why => exact ⟨why, by simp [load, hparse]⟩
  | ok p =>
    obtain ⟨front, rfl, hfour, hchars⟩ := parseImage_front hparse
    exact absurd hchars (h front (List.prefix_append front _) hfour)

/-- A front of a text that does not hold the character `ch` ends before `ch`. -/
theorem prefix_of_not_mem {front before after : List Char} {ch : Char}
    (h : front <+: before ++ ch :: after) (hch : ch ∉ front) : front <+: before := by
  have hsplit : before ++ [ch] <+: before ++ ch :: after := ⟨after, by simp⟩
  obtain hshort | hlong := List.prefix_or_prefix_of_prefix h hsplit
  · obtain rfl | hbefore := List.prefix_concat_iff.mp hshort
    · exact absurd (List.mem_append_right before List.mem_cons_self) hch
    · exact hbefore
  · exact absurd (hlong.subset (List.mem_append_right before List.mem_cons_self)) hch

/-- Settles O56: what is read of an image has four terminators and no foreign character in it. -/
theorem loadRefusesMalformedImages : Obligations.LoadRefusesMalformedImages := by
  refine ⟨fun stream hcount => ?short, fun before ch after hcount hdigit hspace hend => ?foreign⟩
  case short =>
    refine load_rejected_of_no_front fun front hfront hfour _ => ?_
    have hmore : front.count terminator ≤ stream.count '%' := hfront.sublist.count_le terminator
    omega
  case foreign =>
    refine load_rejected_of_no_front fun front hfront hfour hchars => ?_
    have hch : ch ∉ front := fun hmem => by
      simpa [IsImageChar, hdigit, hspace, hend, terminator] using hchars ch hmem
    have hmore : front.count terminator ≤ before.count '%' :=
      (prefix_of_not_mem hfront hch).sublist.count_le terminator
    omega

/-- Settles O55: acceptance is `problem_eq_none_iff`, and there is no third outcome. -/
theorem loadRefusesWhatDoesNotFit : Obligations.LoadRefusesWhatDoesNotFit := by
  intro stream x rest hparse
  have haccept : (∃ s, load stream = .loaded s rest) ↔ x.problem = none := by
    simp [load_eq_loaded_iff hparse]
  refine ⟨haccept.trans x.problem_eq_none_iff, fun hno => ?_⟩
  obtain ⟨why, hwhy⟩ := Option.ne_none_iff_exists'.mp (mt haccept.mpr hno)
  exact ⟨why, by simp [load, hparse, loadSections, hwhy]⟩

/-! ### The form of the state loaded -/

/-- An accepted image is cut into sections that fit, and the state is what they load. -/
theorem load_loaded {stream rest : List Char} {s : State} (h : load stream = .loaded s rest) :
    ∃ x : Sections, parseImage stream = .ok (x, rest) ∧ x.problem = none ∧ x.loaded = s := by
  cases hp : parseImage stream with
  | error why => simp [load, hp] at h
  | ok p =>
    obtain ⟨hfit, hloaded, hrest⟩ := (load_eq_loaded_iff hp s rest).mp h
    exact ⟨p.1, by rw [← hrest], hfit, hloaded⟩

/-- Sections that fit load memories in canonical form, and nothing has been dumped. -/
theorem Sections.loaded_wf {x : Sections} (h : x.problem = none) : x.loaded.wf = true := by
  obtain ⟨-, hmem, -, himem, -⟩ := x.problem_eq_none_iff.mp h
  rw [State.wf_iff, x.loaded_mem, x.loaded_imem]
  refine ⟨Memory.wf_fill _ (by simpa [Config.dataCells] using hmem) Memory.wf_nil,
    Memory.wf_fill _ (by simpa [Config.instrCells] using himem) Memory.wf_nil, ?dumps⟩
  case dumps =>
    rw [Sections.loaded, State.loadRegs_frame]
    rfl

/-- Settles O57. -/
theorem loadedStatesHaveCanonicalForm : Obligations.LoadedStatesHaveCanonicalForm := by
  intro stream s rest hload
  obtain ⟨x, -, hfit, rfl⟩ := load_loaded hload
  exact Sections.loaded_wf hfit

/-- Settles O19: both facts hold of the state loaded, and every step keeps them. -/
theorem runsFromAnImageKeepFormAndProgram : Obligations.RunsFromAnImageKeepFormAndProgram := by
  intro stream s rest ints chars n t hload hrun
  have hwf : (s.withAnswers ints chars).wf = true := loadedStatesHaveCanonicalForm stream s rest hload
  refine run_invariant (P := fun u => u.wf = true ∧ u.imem = s.imem) ?_ ⟨hwf, rfl⟩ hrun
  rintro u v ⟨hu, himem⟩ hstep
  exact ⟨(step_effect hstep).wf hu, (step_effect hstep).imem_eq.trans himem⟩

end Sys2Proof.Machine

/-! SUPPORT. Dumps: the words of a dump's sections, that they fit and are what the dump holds, and that
every image has a text (43_system.md R130; 70_reset_and_hazards.md R163 to R169). -/

namespace Sys2Proof.Machine

/-! ### The words of a memory -/

section Words
variable {w : Nat} (m : Memory w) (first last : Nat)

theorem Memory.length_words : (m.words first last).length = last - first := by
  simp [Memory.words]

/-- The words are the cells in order. -/
theorem Memory.getD_words {i : Nat} (h : first + i < last) :
    (m.words first last).getD i 0 = (m.read (first + i)).toNat := by
  have hi : i < last - first := by omega
  simp [Memory.words, List.getD_eq_getElem?_getD, hi]

/-- Every word fits its cell. -/
theorem Memory.words_lt : ∀ v ∈ m.words first last, v < 2 ^ w := by
  intro v hv
  obtain ⟨a, -, rfl⟩ := List.mem_map.mp hv
  exact (m.read a).isLt

end Words

/-- The words kept are words. -/
theorem dropTrailingZeros_subset (least : Nat) (words : List Nat) :
    dropTrailingZeros least words ⊆ words :=
  List.take_subset _ _

/-! ### The sections of a dump (R130) -/

namespace Dump
variable (d : Dump) (least : MinIndex)

/-- The word of a register, zero or not. -/
theorem getD_registers (r : RegIx) :
    (d.sections least).registers.getD r.val 0 = d.regs[r].toNat := by
  simp [List.getD_eq_getElem?_getD]

/-- The word of a data cell; one left out reads as the 0 the cell holds. -/
theorem getD_memory {a : Nat} (ha : a < 256) :
    (d.sections least).memory.getD a 0 = (d.mem.read a).toNat := by
  have hwords := d.mem.getD_words 0 Config.dataCells (i := a) (by simpa [Config.dataCells] using ha)
  rw [Nat.zero_add] at hwords
  exact (getD_dropTrailingZeros _ _ a).trans hwords

/-- As many words in the third section as `pc` (log entry 12). -/
theorem length_firstInstructions : (d.sections least).firstInstructions.length = d.pc.toNat :=
  d.imem.length_words 0 d.pc.toNat

/-- The word of an instruction cell below `pc`. -/
theorem getD_firstInstructions {a : Nat} (ha : a < d.pc.toNat) :
    (d.sections least).firstInstructions.getD a 0 = (d.imem.read a).toNat := by
  have hwords := d.imem.getD_words 0 d.pc.toNat (i := a) (by omega)
  rwa [Nat.zero_add] at hwords

/-- The word of an instruction cell from `pc` up. -/
theorem getD_secondInstructions {a : Nat} (ha : d.pc.toNat + a < 256) :
    (d.sections least).secondInstructions.getD a 0 = (d.imem.read (d.pc.toNat + a)).toNat :=
  (getD_dropTrailingZeros _ _ a).trans (d.imem.getD_words d.pc.toNat Config.instrCells ha)

/-- The word of an instruction cell, in the two sections together. -/
theorem getD_instructions {a : Nat} (ha : a < 256) :
    ((d.sections least).firstInstructions ++ (d.sections least).secondInstructions).getD a 0 =
      (d.imem.read a).toNat := by
  have hlen := d.length_firstInstructions least
  by_cases hpc : a < d.pc.toNat
  · rw [List.getD_append _ _ _ _ (by omega), d.getD_firstInstructions least hpc]
  · have hsum : d.pc.toNat + (a - d.pc.toNat) = a := by omega
    rw [List.getD_append_right _ _ _ _ (by omega), hlen,
      d.getD_secondInstructions least (by omega), hsum]

/-- The sections of a dump fit. -/
theorem sections_problem : (d.sections least).problem = none := by
  have hpc := d.pc.isLt
  have hsecond : (d.sections least).secondInstructions.length ≤ 256 - d.pc.toNat :=
    (length_dropTrailingZeros_le _ _).trans_eq (d.imem.length_words _ _)
  have hmem : (d.sections least).memory.length ≤ 256 :=
    (length_dropTrailingZeros_le _ _).trans_eq (d.mem.length_words _ _)
  refine (Sections.problem_eq_none_iff _).mpr ⟨?_, hmem, ?_, ?_, ?bytes, ?words⟩
  · simp
  · rw [d.length_firstInstructions least]; omega
  · rw [d.length_firstInstructions least]; omega
  case bytes =>
    refine List.forall_mem_append.mpr ⟨fun v hv => ?_, fun v hv => ?_⟩
    · rw [sections_registers] at hv
      obtain ⟨r, -, rfl⟩ := List.mem_map.mp hv
      exact Nat.le_of_lt_succ r.isLt
    · exact Nat.le_of_lt_succ (d.mem.words_lt _ _ v (dropTrailingZeros_subset _ _ hv))
  case words =>
    refine List.forall_mem_append.mpr ⟨fun v hv => ?_, fun v hv => ?_⟩
    · exact Nat.le_of_lt_succ (d.imem.words_lt _ _ v hv)
    · exact Nat.le_of_lt_succ (d.imem.words_lt _ _ v (dropTrailingZeros_subset _ _ hv))

end Dump

/-! ### Reloading a dump -/

/-- Memories in canonical form whose 256 cells hold the same numbers are the same list. -/
theorem Memory.eq_of_cells {w : Nat} {m m' : Memory w} (hm : m.wf 256 = true)
    (hm' : m'.wf 256 = true)
    (h : ∀ a : Byte, (m.read a.toNat).toNat = (m'.read a.toNat).toNat) : m = m' :=
  Memory.ext_of_wf hm hm' fun a ha =>
    BitVec.eq_of_toNat_eq (by simpa [Nat.mod_eq_of_lt ha] using h (BitVec.ofNat 8 a))

/-- A state that reads as a dump, both in canonical form, has the dump as its snapshot. -/
theorem State.snapshot_eq {s : State} {d : Dump} (hs : s.wf = true) (hd : d.wf = true)
    (hregs : ∀ r : RegIx, s.val r = d.regs[r].toNat)
    (hmem : ∀ a : Byte, (s.readMem a).toNat = (d.mem.read a.toNat).toNat)
    (himem : ∀ a : Byte, (s.readImem a).toNat = (d.imem.read a.toNat).toNat)
    (hpc : s.pc.toNat = d.pc.toNat) : s.snapshot = d := by
  obtain ⟨hsmem, hsimem, -⟩ := s.wf_iff.mp hs
  obtain ⟨hdmem, hdimem⟩ : d.mem.wf Config.dataCells = true ∧ d.imem.wf Config.instrCells = true := by
    simpa [Dump.wf] using hd
  have eregs : s.regs = d.regs := Vector.ext fun i hi => BitVec.eq_of_toNat_eq (hregs ⟨i, hi⟩)
  have emem : s.mem = d.mem := Memory.eq_of_cells hsmem hdmem hmem
  have eimem : s.imem = d.imem := Memory.eq_of_cells hsimem hdimem himem
  have epc : s.pc = d.pc := BitVec.eq_of_toNat_eq hpc
  rw [State.snapshot, eregs, emem, eimem, epc]

/-- Settles O58: the sections of a dump fit, so they are loaded, and every word read from the state is the
word of the dump; memories in canonical form that read alike are the same. -/
theorem dumpReloadsToTheStateItWasTakenFrom : Obligations.DumpReloadsToTheStateItWasTakenFrom := by
  intro d least text hwf hrendered
  obtain ⟨-, rest, hparse, hrest⟩ := hrendered
  have hload : load text = .loaded (d.sections least).loaded rest :=
    (load_eq_loaded_iff hparse _ _).mpr ⟨d.sections_problem least, rfl, rfl⟩
  obtain ⟨-, hregs, hmem, himem, hpc, hhalted⟩ := loadPlacesTheWords _ _ _ _ _ hparse hload
  refine ⟨_, rest, hload, State.snapshot_eq (Sections.loaded_wf (d.sections_problem least)) hwf
    (fun r => (hregs r).trans (d.getD_registers least r))
    (fun a => (hmem a).trans (d.getD_memory least a.isLt))
    (fun a => (himem a).trans (d.getD_instructions least a.isLt))
    (hpc.trans (d.length_firstInstructions least)), hhalted, hrest⟩

/-- Settles O60: what the loader reads of a text that renders a dump is the dump's sections. -/
theorem dumpTextHasAllRegistersAndAsManyWordsAsPc :
    Obligations.DumpTextHasAllRegistersAndAsManyWordsAsPc := by
  intro d least text x rest hrendered hparse
  obtain ⟨-, rest', hparse', -⟩ := hrendered
  cases hparse.symm.trans hparse'
  exact ⟨by simp, d.getD_registers least, d.length_firstInstructions least,
    fun a ha => d.getD_firstInstructions least ha⟩

/-! ### Every image has a text -/

/-- The value of a run goes on from that of its front. -/
theorem wordValueFrom_append (more run : List Char) : ∀ {acc : Option Nat} {v : Nat},
    wordValueFrom acc run = some v → wordValueFrom acc (run ++ more) = wordValueFrom (some v) more := by
  induction run with
  | nil =>
    rintro acc v h
    obtain rfl : acc = some v := h
    rfl
  | cons ch run ih =>
    intro acc v h
    cases hd : digit ch with
    | none => simp [wordValueFrom_cons_of_none hd] at h
    | some d =>
      rw [wordValueFrom_cons_of_some hd] at h
      exact (wordValueFrom_cons_of_some hd acc (run ++ more)).trans (ih h)

/-- A run that has a value is made of digits. -/
theorem digit_of_wordValue {run : List Char} {v : Nat} (h : wordValue run = some v) :
    ∀ ch ∈ run, digit ch ≠ none := by
  intro ch hch hforeign
  have hnone : wordValue run = none := wordValueFrom_eq_none run none ⟨ch, hch, hforeign⟩
  rw [h] at hnone
  cases hnone

/-- Every number has a spelling: its decimal numeral (R163, R164). -/
theorem exists_spelling (v : Nat) : ∃ run, wordValue run = some v := by
  have hdecimal : ∀ n < 10, digit (Char.ofNat ('0'.toNat + n)) = some ⟨n, 10⟩ := numeralTable.1
  induction v using Nat.strongRecOn with
  | ind v ih =>
    by_cases hsmall : v < 10
    · exact ⟨[Char.ofNat ('0'.toNat + v)], wordValueFrom_cons_of_some (hdecimal v hsmall) none []⟩
    · obtain ⟨run, hrun⟩ := ih (v / 10) (by omega)
      have hlast : digit (Char.ofNat ('0'.toNat + v % 10)) = some ⟨v % 10, 10⟩ :=
        hdecimal (v % 10) (Nat.mod_lt v (by decide))
      refine ⟨run ++ [Char.ofNat ('0'.toNat + v % 10)], ?_⟩
      calc wordValue (run ++ [Char.ofNat ('0'.toNat + v % 10)])
        _ = wordValueFrom (some (v / 10)) [Char.ofNat ('0'.toNat + v % 10)] :=
            wordValueFrom_append _ run hrun
        _ = some (v / 10 * 10 + v % 10) := wordValueFrom_cons_of_some hlast _ []
        _ = some v := by rw [Nat.div_add_mod']

/-- The whitespace of the text is line breaks (R130). -/
def LineBreaksOnly (text : List Char) : Prop :=
  ∀ ch ∈ text, isWhitespace ch = true → ch = lineBreak

theorem LineBreaksOnly.append {text more : List Char} (h : LineBreaksOnly text)
    (hmore : LineBreaksOnly more) : LineBreaksOnly (text ++ more) :=
  List.forall_mem_append.mpr ⟨h, hmore⟩

theorem lineBreaksOnly_lineBreak : LineBreaksOnly [lineBreak] :=
  fun _ hch _ => List.mem_singleton.mp hch

theorem lineBreaksOnly_of_wordValue {run : List Char} {v : Nat} (h : wordValue run = some v) :
    LineBreaksOnly run := by
  intro ch hch hspace
  rw [isWhitespace_of_digit (digit_of_wordValue h ch hch)] at hspace
  cases hspace

/-- Every list of words is a section of some text: a spelling and a line break for each, and the
terminator. -/
theorem exists_section_text (words : List Nat) :
    ∃ text, LineBreaksOnly text ∧ parseSection none text = .ok (words, []) := by
  induction words with
  | nil =>
    refine ⟨[terminator], ?_, parseSection_terminator none []⟩
    intro ch hch hspace
    exact absurd (List.mem_singleton.mp hch) (ne_terminator_of_isWhitespace hspace)
  | cons word words ih =>
    obtain ⟨run, hrun⟩ := exists_spelling word
    obtain ⟨text, hbreaks, hparse⟩ := ih
    exact ⟨run ++ ([lineBreak] ++ text),
      (lineBreaksOnly_of_wordValue hrun).append (lineBreaksOnly_lineBreak.append hbreaks),
      parseSection_word hrun (by decide) hparse⟩

/-- Every four sections are those of some text. -/
theorem exists_image_text (x : Sections) :
    ∃ text, LineBreaksOnly text ∧ parseImage text = .ok (x, []) := by
  obtain ⟨text1, breaks1, h1⟩ := exists_section_text x.registers
  obtain ⟨text2, breaks2, h2⟩ := exists_section_text x.memory
  obtain ⟨text3, breaks3, h3⟩ := exists_section_text x.firstInstructions
  obtain ⟨text4, breaks4, h4⟩ := exists_section_text x.secondInstructions
  refine ⟨text1 ++ (text2 ++ (text3 ++ text4)),
    breaks1.append (breaks2.append (breaks3.append breaks4)), ?_⟩
  simp only [parseImage, parseSection_append _ _ _ _ _ h1, parseSection_append _ _ _ _ _ h2,
    parseSection_append _ _ _ _ _ h3, h4, List.nil_append]

/-- Settles O59: the sections of a dump are those of a text, and a line break after a text is left in the
stream. -/
theorem everyDumpHasARendering : Obligations.EveryDumpHasARendering := by
  refine fun d least => ⟨?rendered, fun text hrendered => ?longer⟩
  case rendered =>
    obtain ⟨text, hbreaks, hparse⟩ := exists_image_text (d.sections least)
    exact ⟨text, hbreaks, [], hparse, List.forall_mem_nil _⟩
  case longer =>
    obtain ⟨hbreaks, rest, hparse, hrest⟩ := hrendered
    exact ⟨LineBreaksOnly.append hbreaks lineBreaksOnly_lineBreak, rest ++ [lineBreak],
      parseImage_append [lineBreak] hparse,
      List.forall_mem_append.mpr ⟨hrest, fun _ => List.mem_singleton.mp⟩⟩

end Sys2Proof.Machine

/-! SUPPORT. The remaining instructions: the two-source operations, LDX, DIV and MUL with their aliased
forms, RET and CALLX, and the returns from CALL and CALLS (40_arithmetic_logic.md R70, R71, R74 to R79;
41_load_store_stack.md R92; 42_control_transfer.md R100 to R108). -/

namespace Sys2Proof.Machine

/-! ### What the instructions answer -/

section Answers
variable (a b c : RegIx) (s : State)

/-- ADD writes the scaled sum (R76). -/
theorem exec_add :
    exec (.add a b c) s = .next (s.advance.setReg a (scale (s.val b + s.val c))) := rfl

/-- SUB writes the scaled difference (R74). -/
theorem exec_sub :
    exec (.sub a b c) s = .next (s.advance.setReg a (scale (s.val b - s.val c))) := rfl

/-- OR writes the bitwise or (R77). -/
theorem exec_or : exec (.or a b c) s = .next (s.advance.setReg a (s.reg b ||| s.reg c)) := rfl

/-- AND writes the bitwise and (R78). -/
theorem exec_and : exec (.and a b c) s = .next (s.advance.setReg a (s.reg b &&& s.reg c)) := rfl

/-- XOR writes the bitwise exclusive or (R79). -/
theorem exec_xor : exec (.xor a b c) s = .next (s.advance.setReg a (s.reg b ^^^ s.reg c)) := rfl

/-- LDX writes the cell at the indexed address (R92). -/
theorem exec_ldx :
    exec (.ldx a b c) s =
      .next (s.advance.setReg a (s.readMem (indexedAddr (s.reg b) (s.reg c)))) := rfl

/-- RET links and jumps to what `x[c]` holds then (R101). -/
theorem exec_ret :
    exec (.ret a c) s =
      .next ((s.advance.setReg a s.npc).setPc ((s.advance.setReg a s.npc).reg c)) := rfl

/-- CALLX links and jumps to the cell at the indexed address of `x[a]` and `x[b]` as they are then
(R102, at `CALLX_BASE = link`). -/
theorem exec_callx :
    exec (.callx a b c) s =
      .next ((s.advance.setReg a s.npc).setPc (s.readMem
        (indexedAddr ((s.advance.setReg a s.npc).reg a) ((s.advance.setReg a s.npc).reg b)))) := rfl

end Answers

/-! ### The two-source operations and LDX -/

/-- Settles O22: opcodes 4 and 3 select ADD and SUB by their conditions (R57, R58), and `scale` of the sum
and of the difference is their remainder by 256. -/
theorem addAndSubWrap : Obligations.AddAndSubWrap := by
  intro s a b c
  have hb := s.val_lt b
  have hc := s.val_lt c
  refine ⟨fun hcb => (decode_opcode4 a b c).trans (if_neg (not_le.mpr hcb)),
    fun hbc => (decode_opcode3 a b c).trans (if_pos hbc),
    setsRegister_of_exec_eq (exec_add a b c s) ?sum, setsRegister_of_exec_eq (exec_sub a b c s) ?difference⟩
  case sum => rw [scale_toNat]; omega
  case difference => rw [scale_toNat]; split <;> omega

/-- Settles O24: opcodes 5 to 7 select the three operations where b > c (R58), and each writes the word
whose bits are those of the operation. -/
theorem bitwiseOperations : Obligations.BitwiseOperations := by
  intro s a b c
  refine ⟨fun hcb => ⟨(decode_opcode5 a b c).trans (if_neg (not_le.mpr hcb)),
      (decode_opcode6 a b c).trans (if_neg (not_le.mpr hcb)),
      (decode_opcode7 a b c).trans (if_neg (not_le.mpr hcb))⟩,
    ⟨_, setsRegister_of_exec_eq (exec_or a b c s) rfl, fun k => BitVec.getLsbD_or⟩,
    ⟨_, setsRegister_of_exec_eq (exec_and a b c s) rfl, fun k => BitVec.getLsbD_and⟩,
    ⟨_, setsRegister_of_exec_eq (exec_xor a b c s) rfl, fun k => ?xor⟩⟩
  case xor => rw [BitVec.getLsbD_xor]

/-- An address is the indexed one if it is the sum modulo 256 (R36). -/
theorem eq_indexedAddr {addr x y : Byte} (h : addr.toNat = (x.toNat + y.toNat) % 256) :
    addr = indexedAddr x y :=
  BitVec.eq_of_toNat_eq (h.trans (indexedAddr_toNat x y).symm)

/-- Settles O31: opcode 4 selects LDX where b ≤ c (R58), and the address of the statement is the indexed
one. -/
theorem indexedLoad : Obligations.IndexedLoad := by
  intro s a b c addr
  refine ⟨fun hbc => (decode_opcode4 a b c).trans (if_pos hbc), fun haddr => ?_⟩
  rw [eq_indexedAddr haddr]
  exact setsRegister_of_exec_eq (exec_ldx a b c s) rfl

/-! ### DIV and MUL -/

/-- A register neither step writes is kept by both. -/
theorem RegsKeptBut.trans {s t u : State} {l l' m : List RegIx} (h : RegsKeptBut s t l)
    (h' : RegsKeptBut t u l') (hl : l ⊆ m) (hl' : l' ⊆ m) : RegsKeptBut s u m :=
  fun r hr => (h' r (mt (@hl' r) hr)).trans (h r (mt (@hl r) hr))

/-- A write to one register keeps the others. -/
theorem regsKeptBut_setReg (s : State) (a : RegIx) (v : Byte) : RegsKeptBut s (s.setReg a v) [a] :=
  fun _ hr => State.reg_setReg_ne s (List.ne_of_not_mem_cons hr) v

/-- DIV without the fault: `x[a]` holds the quotient, and `x[a1]` the remainder of the registers as they are
once the quotient is written (R70). -/
theorem exec_div_answers {s : State} {a c : RegIx} (b : RegIx) (hc : s.val c ≠ 0)
    (hdefined : a = c → s.val c ≤ s.val b) :
    ∃ t, exec (.div a b c) s = .next t ∧ t.val a = s.val b / s.val c ∧
      t.val (a + 1) = (s.withQuotient a b c).val b % (s.withQuotient a b c).val c ∧
      t.pc = s.npc ∧ RegsKeptBut s t [a, a + 1] ∧ DataKept s t ∧ MachineKept s t := by
  have hdivisor : ¬ (s.withQuotient a b c).val c = 0 := fun hzero =>
    have ⟨hac, hlt⟩ := (withQuotient_divisor_eq_zero_iff a b hc).mp hzero
    Nat.not_lt.mpr (hdefined hac) hlt
  refine ⟨_, (execDiv_of_divisor_ne_zero a b hc).trans (if_neg hdivisor), ?quotient, ?remainder, rfl,
    ?regs, fun _ => rfl, machineKept_regs_pc_mem s _ _ _⟩
  case quotient =>
    exact (State.val_setReg_ne _ (nextReg_ne a).symm _).trans (withQuotient_val_same s a b c)
  case remainder =>
    exact (State.val_setReg_same _ (nextReg a) _).trans
      (scale_toNat_of_lt (Nat.lt_of_le_of_lt (Nat.mod_le _ _) (State.val_lt _ b)))
  case regs =>
    exact (regsKeptBut_advance_setReg s a _).trans (regsKeptBut_setReg _ (nextReg a) _) (by simp)
      (by simp [nextReg])

/-- Settles O27: opcode 0 selects DIV where b ≠ c (R55); the forms of the remainder differ in which of
`x[b]` and `x[c]` the quotient stands in. -/
theorem divideWritesQuotientAndRemainder : Obligations.DivideWritesQuotientAndRemainder := by
  intro s a b c hbc
  refine ⟨(decode_opcode0 a b c).trans (if_pos hbc), fun hc => ?zero, fun hc hdefined => ?divides,
    fun hc hac hlt => exec_of_divAliasZero ⟨a, b, c, rfl, hac, hc, hlt⟩⟩
  case zero => exact ⟨_, execDiv_of_divisor_zero a b hc, rfl, advance_setPc_frame s s.npc⟩
  case divides =>
    obtain ⟨t, hexec, hquotient, hremainder, hpc, hframe⟩ := exec_div_answers b hc hdefined
    refine ⟨t, hexec, hquotient, fun hab hac => ?plain, ?dividend, ?divisor, hpc, hframe⟩
    case plain =>
      rw [hremainder, withQuotient_val_ne s (Ne.symm hab), withQuotient_val_ne s (Ne.symm hac)]
    case dividend =>
      rintro rfl
      rw [hremainder, withQuotient_val_same, withQuotient_val_ne s hbc.symm]
    case divisor =>
      rintro rfl
      rw [hremainder, withQuotient_val_same, withQuotient_val_ne s hbc]

/-- The state between the two writes of MUL: the high byte of the product stands in `x[a1]` (R71). -/
def State.withHighByte (s : State) (a b c : RegIx) : State :=
  s.advance.setReg (nextReg a) (scale (s.val b * s.val c / 256 : Nat))

/-- The product of two bytes is below 256 * 256, so the write keeps its high byte whole. -/
theorem withHighByte_val_same (s : State) (a b c : RegIx) :
    (s.withHighByte a b c).val (a + 1) = s.val b * s.val c / 256 := by
  have hproduct : s.val b * s.val c < 256 * 256 := Nat.mul_lt_mul'' (s.val_lt b) (s.val_lt c)
  exact (State.val_setReg_same _ (nextReg a) _).trans
    (scale_toNat_of_lt (Nat.div_lt_of_lt_mul hproduct))

theorem withHighByte_val_ne (s : State) {a r : RegIx} (h : a + 1 ≠ r) (b c : RegIx) :
    (s.withHighByte a b c).val r = s.val r :=
  State.val_setReg_ne _ h.symm _

/-- MUL writes the low byte of the product of the registers as they are once the high byte is written
(R71). -/
theorem exec_mul (a b c : RegIx) (s : State) :
    exec (.mul a b c) s = .next ((s.withHighByte a b c).setReg a
      (scale ((s.withHighByte a b c).val b * (s.withHighByte a b c).val c % 256 : Nat))) := rfl

/-- Settles O28: opcode 6 selects MUL where b ≤ c (R58); the forms of the low byte differ in which of the
factors the high byte stands in. -/
theorem multiplyWritesTheProductPair : Obligations.MultiplyWritesTheProductPair := by
  intro s a b c
  have hlow : ((s.withHighByte a b c).setReg a
      (scale ((s.withHighByte a b c).val b * (s.withHighByte a b c).val c % 256 : Nat))).val a =
      (s.withHighByte a b c).val b * (s.withHighByte a b c).val c % 256 :=
    (State.val_setReg_same _ a _).trans (scale_toNat_of_lt (Nat.mod_lt _ (by decide)))
  refine ⟨fun hbc => (decode_opcode6 a b c).trans (if_pos hbc), _, exec_mul a b c s, ?high, ?plain,
    ?first, ?second, ?both, rfl, ?regs, fun _ => rfl, machineKept_regs_pc_mem s _ _ _⟩
  case high =>
    exact (State.val_setReg_ne _ (nextReg_ne a) _).trans (withHighByte_val_same s a b c)
  case plain =>
    intro hb hc
    rw [hlow, withHighByte_val_ne s hb, withHighByte_val_ne s hc]
  case first =>
    rintro rfl hc
    rw [hlow, withHighByte_val_same, withHighByte_val_ne s hc]
  case second =>
    rintro rfl hb
    rw [hlow, withHighByte_val_same, withHighByte_val_ne s hb]
  case both =>
    rintro rfl rfl
    rw [hlow, withHighByte_val_same]
  case regs =>
    exact (regsKeptBut_advance_setReg s (nextReg a) _).trans (regsKeptBut_setReg _ a _)
      (by simp [nextReg]) (by simp)

/-! ### RET and CALLX -/

/-- Settles O35: opcode 1 selects RET where a is repeated (R56); the target is read after the link is
written, which is the link itself if c = a. -/
theorem returnLinksAndJumps : Obligations.ReturnLinksAndJumps := by
  intro s a c
  refine ⟨(decode_opcode1 a a c).trans (if_pos rfl), _, exec_ret a c s,
    State.reg_setReg_same s.advance a s.npc, fun hca => State.reg_setReg_ne s.advance hca s.npc, ?linked,
    regsKeptBut_advance_setReg s a s.npc, fun _ => rfl, machineKept_regs_pc_mem s _ _ _⟩
  case linked =>
    rintro rfl
    exact State.reg_setReg_same s.advance c s.npc

/-- Settles O36: opcode 7 selects CALLX where b ≤ c (R58); the address is formed after the link is written,
so its first term is `npc`, and its second too if a = b. -/
theorem indexedCallTakesItsTargetFromData : Obligations.IndexedCallTakesItsTargetFromData := by
  intro s a b c
  have hbase : (s.advance.setReg a s.npc).reg a = s.npc := State.reg_setReg_same s.advance a s.npc
  refine ⟨fun hbc => (decode_opcode7 a b c).trans (if_pos hbc), _, exec_callx a b c s, hbase,
    fun addr hab haddr => ?plain, fun addr hab haddr => ?linked, regsKeptBut_advance_setReg s a s.npc,
    fun _ => rfl, machineKept_regs_pc_mem s _ _ _⟩
  case plain =>
    have hindex : (s.advance.setReg a s.npc).reg b = s.reg b :=
      State.reg_setReg_ne s.advance (Ne.symm hab) s.npc
    rw [State.setPc_pc, hbase, hindex, ← eq_indexedAddr haddr]
  case linked =>
    subst hab
    rw [Nat.two_mul] at haddr
    rw [State.setPc_pc, hbase, ← eq_indexedAddr haddr]

/-! ### Returning (R108) -/

/-- Settles O40: CALL pushes `npc` and the RECALL finds it at the pointer, which the call has lowered by
1 and the bump raises by `x[c] + 1`. -/
theorem callThenRecallReturns : Obligations.CallThenRecallReturns := by
  intro s a b c imm hab hac
  have hpush : Pushes a s.npc s (s.pushed a s.npc) := pushes_pushed a s.npc s
  obtain ⟨-, u, hexec, hpc, hcell, hdata, hpointer, hlink, hregs, -⟩ :=
    recallSwapsPcWithTheStackCell ((s.pushed a s.npc).setPc imm) a b c hab hac
  refine ⟨_, u, exec_call a imm s, hexec, hpc.trans hpush.top, ?pointer, hlink, hcell,
    hpush.regs.trans hregs (by simp) (by simp), fun addr haddr => ?data⟩
  case pointer =>
    have hlt := s.val_lt a
    have hc : (s.pushed a s.npc).val c = s.val c :=
      congrArg BitVec.toNat (hpush.regs c (by simpa using hac.symm))
    rw [hpointer, State.setPc_val, State.setPc_val, hpush.pointer, hc]
    omega
  case data => exact (hdata addr haddr).trans (hpush.data addr haddr)

/-- Settles O41: CALLS leaves `npc` in `x[a]`, and the RET that links elsewhere jumps to it. -/
theorem subroutineCallThenReturnReturns : Obligations.SubroutineCallThenReturnReturns := by
  intro s a d imm hda
  have hlink : ((s.advance.setReg a s.npc).setPc imm).reg a = s.npc :=
    State.reg_setReg_same s.advance a s.npc
  have hcall : RegsKeptBut s ((s.advance.setReg a s.npc).setPc imm) [a] :=
    regsKeptBut_advance_setReg s a s.npc
  obtain ⟨-, u, hexec, hreturn, hpc, -, hregs, hdata, -⟩ :=
    returnLinksAndJumps ((s.advance.setReg a s.npc).setPc imm) d a
  refine ⟨_, u, exec_calls a imm s, hexec, (hpc hda.symm).trans hlink, ?kept, hreturn,
    hcall.trans hregs (by simp) (by simp), hdata⟩
  case kept => exact (hregs a (by simpa using hda.symm)).trans hlink

end Sys2Proof.Machine

/-! SUPPORT. HALT and the remaining system calls: the read of a character, the decimal numeral and the string
scan (43_system.md R120, R125, R126, R128, R131). -/

namespace Sys2Proof.Machine

/-! ### HALT and the reads -/

/-- Settles O42: opcode 0 with one index repeated selects HALT (R55), which writes the latch, the status and
`pc` alone. -/
theorem haltDeliversTheExitStatus : Obligations.HaltDeliversTheExitStatus := by
  intro s a
  exact ⟨decode_encode (i := .halt a) rfl, s.advance.halt (s.reg a), exec_halt a s, rfl, rfl, rfl,
    fun _ _ => rfl, fun _ => rfl, fun _ => rfl, ⟨rfl, rfl⟩, ⟨rfl, rfl⟩⟩

/-- Settles O45: selector 3 selects SYS 3 (R60), which takes the one answer and reports it by the
register-flag protocol. -/
theorem readCharacterReportsInTheNextRegister : Obligations.ReadCharacterReportsInTheNextRegister := by
  intro s a rest
  refine ⟨decode_opcode15 a 3, fun k hq => ?ok, fun hq => ?eof⟩
  case ok =>
    obtain ⟨hflag, hvalue, hkept⟩ := reportRead_some_vals { s with charAnswers := rest }.advance a k
    exact ⟨_, execSys3_of_cons hq a, hflag, Int.ofNat_inj.mp hvalue, rfl, rfl, rfl, hkept,
      regs_pc_answers_frame s _ _ _ _⟩
  case eof =>
    obtain ⟨hflag, hkept⟩ := reportRead_none_vals { s with charAnswers := rest }.advance a
    exact ⟨_, execSys3_of_cons hq a, hflag, rfl, rfl, rfl, hkept, regs_pc_answers_frame s _ _ _ _⟩

/-- Settles O46. -/
theorem readsWaitForTheirAnswer : Obligations.ReadsWaitForTheirAnswer :=
  fun _ a => ⟨fun hq => execSys1_of_nil hq a, fun hq => execSys3_of_nil hq a⟩

/-! ### The decimal numeral (R125, D9) -/

/-- The digits are the shortest decimal numeral of `n`: digits below 10, most significant first, with no
leading zero but for the number 0 itself. -/
def IsShortestNumeral (digits : List Nat) (n : Nat) : Prop :=
  (∀ d ∈ digits, d < 10) ∧ digits.foldl (fun n d => 10 * n + d) 0 = n ∧ digits ≠ [] ∧
    (digits.head? = some 0 → digits = [0])

/-- The codes of a byte are those of its shortest numeral, of one to three digits. -/
theorem decimalCodes_eq (v : Byte) : ∃ digits, decimalCodes v = digits.map digitCode ∧
    IsShortestNumeral digits v.toNat ∧ digits.length ≤ 3 := by
  have hv := v.isLt
  unfold decimalCodes
  dsimp only
  generalize v.toNat = n at hv
  split
  case isTrue hone =>
    refine ⟨[n], rfl, ⟨by simpa using hone, by simp, by simp, by simp⟩, by simp⟩
  case isFalse hmany =>
    split
    case isTrue htwo =>
      refine ⟨[n / 10, n % 10], rfl, ⟨?_, ?_, by simp, ?_⟩, by simp⟩
      · have htens : n / 10 < 10 := by omega
        simp [htens, Nat.mod_lt]
      · simp only [List.foldl_cons, List.foldl_nil]; omega
      · exact fun hzero => absurd (Option.some.inj hzero) (by omega)
    case isFalse hthree =>
      refine ⟨[n / 100, n / 10 % 10, n % 10], rfl, ⟨?_, ?_, by simp, ?_⟩, by simp⟩
      · have hhundreds : n / 100 < 10 := by omega
        simp [hhundreds, Nat.mod_lt]
      · simp only [List.foldl_cons, List.foldl_nil]; omega
      · exact fun hzero => absurd (Option.some.inj hzero) (by omega)

/-- SYS 2 writes the numeral of `x[a]` (R125). -/
theorem exec_sys2 (a : RegIx) (s : State) :
    exec (.sys2 a) s = .next (s.advance.writeDec (s.reg a)) := rfl

/-- Settles O47: selector 2 selects SYS 2 (R60), which appends the codes of the numeral and writes no other
stream. -/
theorem writeDecimalAppendsTheShortestNumeral : Obligations.WriteDecimalAppendsTheShortestNumeral := by
  intro s a
  obtain ⟨digits, hcodes, ⟨hdigits, hvalue, hne, hlead⟩, hlen⟩ := decimalCodes_eq (s.reg a)
  have houtput : (s.advance.writeDec (s.reg a)).output = s.output ++ digits.map digitCode :=
    (State.writeDec_output _ _).trans (congrArg (s.output ++ ·) hcodes)
  exact ⟨decode_opcode15 a 2, _, digits, exec_sys2 a s, houtput, hdigits, hvalue, hne, hlead, hlen,
    rfl, rfl, pc_streams_frame s _ _ _⟩

/-! ### The string scan (R128, D11) -/

/-- The scan delivers the cells from `i` on, none of them zero, up to a zero cell or the last cell it may
look at. -/
theorem scanString_eq (m : Memory 8) (cells : Nat) : ∀ i : Nat, ∃ n ≤ cells,
    scanString m cells i = (List.range n).map (fun k => m.read (i + k)) ∧
      (∀ k < n, m.read (i + k) ≠ 0) ∧ (n = cells ∨ m.read (i + n) = 0) := by
  induction cells with
  | zero => exact fun i => ⟨0, le_rfl, rfl, nofun, .inl rfl⟩
  | succ cells ih =>
    intro i
    rw [scanString_succ]
    split
    case isTrue hzero => exact ⟨0, Nat.zero_le _, rfl, nofun, .inr hzero⟩
    case isFalse hcell =>
      obtain ⟨n, hn, hscan, hcells, hend⟩ := ih (i + 1)
      have hshift : ∀ k, i + 1 + k = i + (k + 1) := fun k => by omega
      simp only [hshift] at hscan hcells hend
      refine ⟨n + 1, Nat.succ_le_succ hn, ?_, ?_, hend.imp_left (congrArg (· + 1))⟩
      · rw [hscan, List.range_succ_eq_map, List.map_cons, List.map_map]
        rfl
      · rintro (_ | k) hk
        · exact hcell
        · exact hcells k (Nat.lt_of_succ_lt_succ hk)

/-- A cell of the data memory by its number. -/
theorem readMem_ofNat (s : State) {n : Nat} (h : n < 256) :
    s.readMem (BitVec.ofNat 8 n) = s.mem.read n := by
  rw [State.readMem, BitVec.toNat_ofNat, Nat.mod_eq_of_lt h]

/-- SYS 5 writes the string at `x[a]` (R128). -/
theorem exec_sys5 (a : RegIx) (s : State) :
    exec (.sys5 a) s = .next (s.advance.emit (s.stringAt (s.reg a))) := rfl

/-- Settles O49: selector 5 selects SYS 5 (R60), whose scan may look at the cells from `x[a]` to the last
one. -/
theorem writeStringStopsAtZeroOrTheEnd : Obligations.WriteStringStopsAtZeroOrTheEnd := by
  intro s a
  have hlt := s.val_lt a
  obtain ⟨n, hn, hscan, hcells, hend⟩ := scanString_eq s.mem (256 - s.val a) (s.val a)
  have hread : ∀ k < n, s.readMem (BitVec.ofNat 8 (s.val a + k)) = s.mem.read (s.val a + k) :=
    fun k hk => readMem_ofNat s (by omega)
  refine ⟨decode_opcode15 a 5, _, n, exec_sys5 a s, by omega, ?output, fun k hk => ?cells, ?stop,
    rfl, rfl, pc_streams_frame s _ _ _⟩
  case output =>
    have hstring : s.stringAt (s.reg a) =
        (List.range n).map fun k => s.readMem (BitVec.ofNat 8 (s.val a + k)) :=
      hscan.trans (List.map_congr_left fun k hk => (hread k (List.mem_range.mp hk)).symm)
    exact congrArg (s.output ++ ·) hstring
  case cells => rw [hread k hk]; exact hcells k hk
  case stop =>
    by_cases hlast : s.val a + n = 256
    · exact .inl hlast
    · rw [readMem_ofNat s (by omega)]
      exact .inr (hend.resolve_left (by omega))

end Sys2Proof.Machine
